-- ==== Sys2Proof/Word.lean ====
section
/-!
DEFINITION. The widths of `spec/00_scope.md` R5 and the four flag bits of `spec/10_state.md` R27.
Nothing here computes: every operation on words stands under `Machine/`.
-/

namespace Sys2Proof

/-- A 24-bit value: a data register, a control register, a memory cell or an instruction word (R5). -/
abbrev Word := BitVec 24

/-- A 48-bit value: an address register, a special register or an address (R5, R50). -/
abbrev Addr := BitVec 48

/-- One 12-bit bank of `uimm` (R35). -/
abbrev Bank := BitVec 12

/-- The flags `Z`, `C`, `N`, `V`: four separate state bits with no register and no bit position (R27). -/
structure Flags where
  z : Bool
  c : Bool
  n : Bool
  v : Bool
deriving DecidableEq, Repr

end Sys2Proof
end

