-- ==== Sys2Proof/Config.lean ====
section
/-!
DEFINITION. What the spec leaves to an implementation: the open and flippable parameters of
`spec/92_eei_decisions.md` as plain data, and the one free value. The parameters travel in the state
(no instruction changes them), so every statement about all states is a statement about all of their
values; their default values stand in `Machine/Params.lean`.
-/

namespace Sys2Proof

/-- The three named special registers (R22). -/
inductive SpecialReg where
  | pc
  | lr
  | ssp
deriving DecidableEq, Repr

/-- What an access does at an address: the `kind` of `mem_admits` (R58). -/
inductive AccessKind where
  | fetch
  | read
  | write
deriving DecidableEq, Repr

/-- Addresses `lo` to `hi`, both included, that `mem_admits` rejects for one kind of access (R58). -/
structure Hole where
  kind : AccessKind
  lo : Nat
  hi : Nat
deriving DecidableEq, Repr

/-- `SR_INDEX`: the 2-bit code of each named special register (R22, D3). A fourth code selects none. -/
structure SrIndex where
  pc : BitVec 2
  lr : BitVec 2
  ssp : BitVec 2
deriving DecidableEq, Repr

/-- For which flags a condition holds: bit `8*Z + 4*C + 2*N + V` is set when it holds for them (R42). -/
abbrev CondTruth := BitVec 16

/-- The parameters of the model (R5; `92_eei_decisions.md`, "Parameters left open" and "kept flippable"). -/
structure Params where
  /-- `SR_INDEX` (D3). -/
  srIndex : SrIndex
  /-- `cc_holds` (D10): one truth table per code, `none` where the code has no meaning. -/
  ccTable : Vector (Option CondTruth) 16
  /-- `CC_AL`, the code the assembler emits for the condition `AL` (R42). -/
  ccAL : BitVec 4
  /-- `mem_admits` (D30): the addresses it rejects. -/
  holes : List Hole
  /-- `csr_read` and `csr_write` (D23): the numbers to which the platform attaches a meaning of its own. -/
  csrHooked : List (BitVec 8)
  /-- `RESET_PC` (D24). -/
  resetPc : Addr
  /-- `WIDE_LOW_FIRST` (D6). -/
  wideLowFirst : Bool
  /-- `RESERVED_BITS_STRICT` (D17). -/
  reservedBitsStrict : Bool
  /-- `UOP_CLASS_FETCHABLE` (D19). -/
  uopClassFetchable : Bool
  /-- `IFETCH_COHERENT` (D27). -/
  ifetchCoherent : Bool
deriving DecidableEq, Repr

/-- FREE VALUE (log entry 5): what a read of a control register with a platform meaning gives, for the
register's number and the count of such reads so far. No body: nothing is known of it (R230, U11). -/
opaque Config.csrPlatformRead : BitVec 8 → Nat → Word

end Sys2Proof
end

