-- ==== Sys2Proof/Machine/Flags.lean ====
section
/-!
DEFINITION. Flag computations and the arithmetic that feeds them (`spec/00_scope.md` R11, `spec/10_state.md`
R29 to R34), and what a condition code means (R42, R43). Everything here is a function of values, not of the
machine's state.
-/

namespace Sys2Proof.Machine

/-- A 24-bit sum with its carry and its signed overflow: `add24` (R11). -/
structure Sum24 where
  r : Word
  carry : Bool
  ovf : Bool
deriving DecidableEq, Repr

/-- A 24-bit difference with its borrow and its signed overflow: `sub24` (R11). -/
structure Diff24 where
  r : Word
  borrow : Bool
  ovf : Bool
deriving DecidableEq, Repr

/-- `add24(a, b)` (R11). -/
def add24 (a b : Word) : Sum24 :=
  let full := a.toNat + b.toNat
  let r := BitVec.ofNat 24 full
  { r := r, carry := decide (2 ^ 24 ≤ full), ovf := a.msb == b.msb && r.msb != a.msb }

/-- `sub24(a, b)` (R11). -/
def sub24 (a b : Word) : Diff24 :=
  let r := a - b
  { r := r, borrow := decide (a.toNat < b.toNat), ovf := a.msb != b.msb && r.msb != a.msb }

/-- A shift's or rotation's result and the bit it puts in `C` (R33, R34). -/
structure Shifted where
  r : Word
  c : Bool
deriving DecidableEq, Repr

/-- SHL by `n` from 1 to 31: `full = v * 2^n`, `C = full[24]` (R33, D13). -/
def shl (v : Word) (n : Nat) : Shifted :=
  let full := v.toNat * 2 ^ n
  { r := BitVec.ofNat 24 full, c := full.testBit 24 }

/-- SHR by `n` from 1 to 31: `floor(v / 2^n)`, `C = v[n-1]`, 0 if `n > 24` (R33, D13). -/
def shr (v : Word) (n : Nat) : Shifted :=
  { r := BitVec.ofNat 24 (v.toNat / 2 ^ n), c := if 24 < n then false else v.getLsbD (n - 1) }

/-- SAR by `n` from 1 to 31: `trunc_24(floor(signed(v) / 2^n))`, `C = v[n-1]`, `v[23]` if `n > 24` (R33, D13). -/
def sar (v : Word) (n : Nat) : Shifted :=
  { r := BitVec.ofInt 24 (v.toInt / 2 ^ n), c := if 24 < n then v.msb else v.getLsbD (n - 1) }

/-- ROL by `n` from 1 to 31: `k = n mod 24`, `C = r[0]` (R34, D13). -/
def rol (v : Word) (n : Nat) : Shifted :=
  let k := n % 24
  let r := (v <<< k) ||| (v >>> (24 - k))
  { r := r, c := r.getLsbD 0 }

/-- ROR by `n` from 1 to 31: `k = n mod 24`, `C = r[23]` (R34, D13). -/
def ror (v : Word) (n : Nat) : Shifted :=
  let k := n % 24
  let r := (v >>> k) ||| (v <<< (24 - k))
  { r := r, c := r.getLsbD 23 }

/-- `Z`: the result is zero in all its bits (R29). -/
def zeroFlag {w : Nat} (r : BitVec w) : Bool := r == 0

/-- `N`: the top bit of the result (R31). -/
def negFlag (r : Word) : Bool := r.getLsbD 23

/-- The flags of `{Z}`: `Z` of the result, the others kept (R27, R28). -/
def flagsZ {w : Nat} (r : BitVec w) (f : Flags) : Flags := { f with z := zeroFlag r }

/-- The flags of `{Z, C}` (R27, R28). -/
def flagsZC {w : Nat} (r : BitVec w) (c : Bool) (f : Flags) : Flags := { f with z := zeroFlag r, c := c }

/-- The flags of `{Z, N}` (R27, R28). -/
def flagsZN (r : Word) (f : Flags) : Flags := { f with z := zeroFlag r, n := negFlag r }

/-- The flags of `{Z, N, V}` (R27, R28). -/
def flagsZNV (r : Word) (v : Bool) (f : Flags) : Flags := { f with z := zeroFlag r, n := negFlag r, v := v }

/-- The flags of `{Z, N, C}` (R27, R28). -/
def flagsZNC (r : Word) (c : Bool) (f : Flags) : Flags := { f with z := zeroFlag r, n := negFlag r, c := c }

/-! ## Condition codes -/

/-- The place of a flag valuation in a truth table: `8*Z + 4*C + 2*N + V`. -/
def flagsIndex (f : Flags) : Nat := 8 * f.z.toNat + 4 * f.c.toNat + 2 * f.n.toNat + f.v.toNat

/-- The flag valuation at a place of a truth table. -/
def flagsAt (i : Nat) : Flags :=
  { z := i.testBit 3, c := i.testBit 2, n := i.testBit 1, v := i.testBit 0 }

/-- The truth table of a condition given as a test of the flags (R43). -/
def condTruth (holds : Flags → Bool) : CondTruth :=
  (List.range 16).foldl (fun t i => if holds (flagsAt i) then t ||| (1 <<< i) else t) 0

/-- `cc_holds(cc)` on the given flags: `none` where the table in use gives `cc` no meaning (R42). -/
def ccHolds (p : Params) (cc : BitVec 4) (f : Flags) : Option Bool :=
  (p.ccTable[cc.toNat]'cc.isLt).map fun t => t.getLsbD (flagsIndex f)

/-- The default condition table, codes 0000 to 1111 (R43). DESIGN CHOICE of the spec; log entry 2. -/
def defaultCondTable : Vector (Option CondTruth) 16 :=
  #v[some (condTruth fun f => f.z),                         -- EQ
     some (condTruth fun f => !f.z),                        -- NE
     some (condTruth fun f => f.c),                         -- CS
     some (condTruth fun f => !f.c),                        -- NC
     some (condTruth fun f => f.n),                         -- MI
     some (condTruth fun f => !f.n),                        -- PL
     some (condTruth fun f => f.v),                         -- VS
     some (condTruth fun f => !f.v),                        -- VC
     some (condTruth fun f => !f.c && !f.z),                -- HI
     some (condTruth fun f => f.c || f.z),                  -- LS
     some (condTruth fun f => f.n == f.v),                  -- GE
     some (condTruth fun f => f.n != f.v),                  -- LT
     some (condTruth fun f => !f.z && f.n == f.v),          -- GT
     some (condTruth fun f => f.z || f.n != f.v),           -- LE
     some (condTruth fun _ => true),                        -- AL
     none]                                                  -- no meaning

end Sys2Proof.Machine
end

