-- ==== Sys2Proof/Machine/Params.lean ====
section
/-!
DEFINITION. The value of each parameter where one value must stand: the spec's default, suggestion or decision
(`spec/92_eei_decisions.md`). No statement about all states rests on these values (log entries 1 to 10).
-/

namespace Sys2Proof.Machine

/-- `SR_INDEX` as suggested: PC = 0, LR = 1, SSP = 2, code 3 no register (R22, D3). -/
def defaultSrIndex : SrIndex := { pc := 0, lr := 1, ssp := 2 }

/-- The default parameters. `RESET_PC` is the one of the spec's worked programs (`spec/95_test_vectors.md`,
Part 3). DESIGN CHOICE, log entries 1 to 10. -/
def defaultParams : Params :=
  { srIndex := defaultSrIndex
    ccTable := defaultCondTable
    ccAL := 14
    holes := []
    csrHooked := []
    resetPc := 0x1000
    wideLowFirst := true
    reservedBitsStrict := true
    uopClassFetchable := false
    ifetchCoherent := true }

/-- What the spec asks of the parameters: the three special-register codes differ (R22), and the code emitted
for `AL` holds for all flags (R42). -/
def paramsWf (p : Params) : Bool :=
  p.srIndex.pc != p.srIndex.lr && p.srIndex.pc != p.srIndex.ssp && p.srIndex.lr != p.srIndex.ssp &&
    p.ccTable[p.ccAL.toNat]'p.ccAL.isLt == some (BitVec.allOnes 16)

/-- `mem_admits(addr, kind)` (R58): no hole of that kind covers the address. -/
def memAdmits (p : Params) (a : Addr) (kind : AccessKind) : Bool :=
  !p.holes.any fun h => decide (h.kind = kind) && decide (h.lo ≤ a.toNat) && decide (a.toNat ≤ h.hi)

end Sys2Proof.Machine
end

