-- ==== Sys2Proof/Syntax.lean ====
section
/-!
DEFINITION. The abstract syntax: one constructor per row of `spec/opcode_table.json`, 86 in all, its operands
in the order of their fields from bit 15 down (`spec/30_encoding.md` R73). Register fields keep the width of
their field: every index names a register (R74, D2). A special-register code and `x` may name nothing
(`WellFormed.lean`). A condition stays a code: what it means is a parameter (R42).
-/

namespace Sys2Proof

/-- The selector `H|L` of MOVAur and MOVDur: "H=1, L=0" (R74). -/
inductive Half where
  | low
  | high
deriving DecidableEq, Repr

/-- An instruction or a micro-operation of the listing (R3). -/
inductive Instr where
  -- Opclass 0000: core ALU, register to register, unsigned flags
  /-- `NOP` (R101). -/
  | nop
  /-- `MOVur DRs, DRt` (R102). -/
  | movur (drt drs : BitVec 4)
  /-- `MCCur CC, DRs, DRt` (R103). -/
  | mccur (drt drs cc : BitVec 4)
  /-- `ADDur DRs, DRt` (R104). -/
  | addur (drt drs : BitVec 4)
  /-- `SUBur DRs, DRt` (R105). -/
  | subur (drt drs : BitVec 4)
  /-- `NOTur DRt` (R106). -/
  | notur (drt : BitVec 4)
  /-- `ANDur DRs, DRt` (R107). -/
  | andur (drt drs : BitVec 4)
  /-- `ORur DRs, DRt` (R108). -/
  | orur (drt drs : BitVec 4)
  /-- `XORur DRs, DRt` (R109). -/
  | xorur (drt drs : BitVec 4)
  /-- `SHLur DRs, DRt` (R110). -/
  | shlur (drt drs : BitVec 4)
  /-- `ROLur DRs, DRt` (R111). -/
  | rolur (drt drs : BitVec 4)
  /-- `SHRur DRs, DRt` (R112). -/
  | shrur (drt drs : BitVec 4)
  /-- `RORur DRs, DRt` (R113). -/
  | rorur (drt drs : BitVec 4)
  /-- `CMPur DRs, DRt` (R114). -/
  | cmpur (drt drs : BitVec 4)
  /-- `TSTur DRt` (R115). -/
  | tstur (drt : BitVec 4)
  -- Opclass 0001: core ALU with immediate and `uimm`, unsigned flags
  /-- `LUIui #x, #imm12` (R121). -/
  | luiui (x : BitVec 2) (imm : BitVec 12)
  /-- `MOVui #imm12, DRt` (R122). -/
  | movui (drt : BitVec 4) (imm : BitVec 12)
  /-- `ADDui #imm12, DRt` (R123). -/
  | addui (drt : BitVec 4) (imm : BitVec 12)
  /-- `SUBui #imm12, DRt` (R124). -/
  | subui (drt : BitVec 4) (imm : BitVec 12)
  /-- `ANDui #imm12, DRt` (R125). -/
  | andui (drt : BitVec 4) (imm : BitVec 12)
  /-- `ORui #imm12, DRt` (R126). -/
  | orui (drt : BitVec 4) (imm : BitVec 12)
  /-- `XORui #imm12, DRt` (R127). -/
  | xorui (drt : BitVec 4) (imm : BitVec 12)
  /-- `SHLui #imm5, DRt` (R128). -/
  | shlui (drt : BitVec 4) (imm : BitVec 5)
  /-- `ROLui #imm5, DRt` (R129). -/
  | rolui (drt : BitVec 4) (imm : BitVec 5)
  /-- `SHRui #imm5, DRt` (R130). -/
  | shrui (drt : BitVec 4) (imm : BitVec 5)
  /-- `RORui #imm5, DRt` (R131). -/
  | rorui (drt : BitVec 4) (imm : BitVec 5)
  /-- `CMPui #imm12, DRt` (R132). -/
  | cmpui (drt : BitVec 4) (imm : BitVec 12)
  -- Opclass 0010: core ALU, register to register, signed flags
  /-- `ADDsr DRs, DRt` (R141). -/
  | addsr (drt drs : BitVec 4)
  /-- `SUBsr DRs, DRt` (R142). -/
  | subsr (drt drs : BitVec 4)
  /-- `NEGsr DRt` (R143). -/
  | negsr (drt : BitVec 4)
  /-- `SHRsr DRs, DRt` (R144). -/
  | shrsr (drt drs : BitVec 4)
  /-- `CMPsr DRs, DRt` (R145). -/
  | cmpsr (drt drs : BitVec 4)
  /-- `TSTsr DRt` (R146). -/
  | tstsr (drt : BitVec 4)
  -- Opclass 0011: core ALU, signed immediate
  /-- `MOVsi #imm12, DRt` (R147). -/
  | movsi (drt : BitVec 4) (imm : BitVec 12)
  /-- `MCCsi CC, #imm8, DRt` (R148). -/
  | mccsi (drt cc : BitVec 4) (imm : BitVec 8)
  /-- `ADDsi #imm12, DRt` (R149). -/
  | addsi (drt : BitVec 4) (imm : BitVec 12)
  /-- `SUBsi #imm12, DRt` (R150). -/
  | subsi (drt : BitVec 4) (imm : BitVec 12)
  /-- `SHRsi #imm5, DRt` (R151). -/
  | shrsi (drt : BitVec 4) (imm : BitVec 5)
  /-- `CMPsi #imm12, DRt` (R152). -/
  | cmpsi (drt : BitVec 4) (imm : BitVec 12)
  -- Opclass 0100: loads and stores, base only
  /-- `LDur (ARs), DRt` (R161). -/
  | ldur (drt : BitVec 4) (ars : BitVec 2)
  /-- `STur DRs, (ARt)` (R162). -/
  | stur (art : BitVec 2) (drs : BitVec 4)
  /-- `STui #imm12, (ARt)` (R163). -/
  | stui (art : BitVec 2) (imm : BitVec 12)
  /-- `STsi #imm14, (ARt)` (R164). -/
  | stsi (art : BitVec 2) (imm : BitVec 14)
  -- Opclass 0101: loads and stores, base plus signed offset
  /-- `LDso #imm10(ARs), DRt` (R165). -/
  | ldso (drt : BitVec 4) (ars : BitVec 2) (imm : BitVec 10)
  /-- `STso DRs, #imm10(ARt)` (R166). -/
  | stso (art : BitVec 2) (drs : BitVec 4) (imm : BitVec 10)
  /-- `LDAso #imm12(ARs), ARt` (R167). -/
  | ldaso (art ars : BitVec 2) (imm : BitVec 12)
  /-- `STAso ARs, #imm12(ARt)` (R168). -/
  | staso (art ars : BitVec 2) (imm : BitVec 12)
  -- Opclass 0110: address-register ALU and moves
  /-- `MOVAur DRs, ARt, H|L` (R181). -/
  | movaur (art : BitVec 2) (drs : BitVec 4) (half : Half)
  /-- `MOVDur ARs, DRt, H|L` (R182). -/
  | movdur (drt : BitVec 4) (ars : BitVec 2) (half : Half)
  /-- `ADDAur DRs, ARt` (R183). -/
  | addaur (art : BitVec 2) (drs : BitVec 4)
  /-- `SUBAur DRs, ARt` (R184). -/
  | subaur (art : BitVec 2) (drs : BitVec 4)
  /-- `ADDAsr DRs, ARt` (R185). -/
  | addasr (art : BitVec 2) (drs : BitVec 4)
  /-- `SUBAsr DRs, ARt` (R186). -/
  | subasr (art : BitVec 2) (drs : BitVec 4)
  /-- `ADDAsi #imm12, ARt` (R187). -/
  | addasi (art : BitVec 2) (imm : BitVec 12)
  /-- `SUBAsi #imm12, ARt` (R188). -/
  | subasi (art : BitVec 2) (imm : BitVec 12)
  /-- `LEAso ARs+#imm12, ARt` (R189). -/
  | leaso (art ars : BitVec 2) (imm : BitVec 12)
  /-- `ADRAso PC+#imm14, ARt` (R190). -/
  | adraso (art : BitVec 2) (imm : BitVec 14)
  /-- `CMPAur ARs, ARt` (R191). -/
  | cmpaur (art ars : BitVec 2)
  /-- `TSTAur ARt` (R192). -/
  | tstaur (art : BitVec 2)
  -- Opclass 0111: control flow and linkage
  /-- `BTP` (R201). -/
  | btp
  /-- `JCCur CC, ARt` (R202). -/
  | jccur (art : BitVec 2) (cc : BitVec 4)
  /-- `JCCui CC, #imm12` (R203). -/
  | jccui (cc : BitVec 4) (imm : BitVec 12)
  /-- `BCCsr CC, PC+DRt` (R204). -/
  | bccsr (drt cc : BitVec 4)
  /-- `BCCso CC, PC+#imm12` (R205). -/
  | bccso (cc : BitVec 4) (imm : BitVec 12)
  /-- `BALso PC+#imm16` (R206). -/
  | balso (imm : BitVec 16)
  /-- `JSRur ARt` (R207). -/
  | jsrur (art : BitVec 2)
  /-- `JSRui #imm12` (R208). -/
  | jsrui (imm : BitVec 12)
  /-- `BSRsr PC+DRt` (R209). -/
  | bsrsr (drt : BitVec 4)
  /-- `BSRso PC+#imm16` (R210). -/
  | bsrso (imm : BitVec 16)
  /-- `RET` (R211). -/
  | ret
  -- Opclass 1000: stack helpers
  /-- `PUSHur DRs, (ARt)` (R221). -/
  | pushur (art : BitVec 2) (drs : BitVec 4)
  /-- `PUSHAur ARs, (ARt)` (R222). -/
  | pushaur (art ars : BitVec 2)
  /-- `POPur (ARs), DRt` (R223). -/
  | popur (drt : BitVec 4) (ars : BitVec 2)
  /-- `POPAur (ARs), ARt` (R224). -/
  | popaur (art ars : BitVec 2)
  -- Opclass 1001: CSR access
  /-- `CSRRD #csr8, DRt` (R231). -/
  | csrrd (drt : BitVec 4) (csr : BitVec 8)
  /-- `CSRWR DRs, #csr8` (R232). -/
  | csrwr (drs : BitVec 4) (csr : BitVec 8)
  -- Opclass 1010: privileged / kernel-only
  /-- `SRHLT` (R241). -/
  | srhlt
  /-- `SETSSP ARs` (R242). -/
  | setssp (ars : BitVec 2)
  /-- `SWI #imm12` (R243). -/
  | swi (imm : BitVec 12)
  -- Opclass 1111: special-register micro-operations
  /-- `SRMOVur SRs, SRt` (R251). -/
  | srmovur (srt srs : BitVec 2)
  /-- `SRMOVAur ARs, SRt` (R252). -/
  | srmovaur (srt ars : BitVec 2)
  /-- `SRJCCso CC, SRt+#imm10` (R253). -/
  | srjccso (srt : BitVec 2) (cc : BitVec 4) (imm : BitVec 10)
  /-- `SRADDsi #imm14, SRt` (R254). -/
  | sraddsi (srt : BitVec 2) (imm : BitVec 14)
  /-- `SRSUBsi #imm14, SRt` (R255). -/
  | srsubsi (srt : BitVec 2) (imm : BitVec 14)
  /-- `SRSTso SRs, #imm12(SRt)` (R256). -/
  | srstso (srt srs : BitVec 2) (imm : BitVec 12)
  /-- `SRLDso #imm12(SRs), SRt` (R257). -/
  | srldso (srt srs : BitVec 2) (imm : BitVec 12)
deriving DecidableEq, Repr

end Sys2Proof
end

