-- ==== Sys2Proof/WellFormed.lean ====
section
/-!
DEFINITION. When an instruction has an encoding that decodes: the two conditions the operand widths do not
already carry. LUIui names one of the banks 0, 1, 2 (R121, D16), and a special-register code names PC, LR or
SSP under `SR_INDEX` (R26, D3).
-/

namespace Sys2Proof

/-- The special register a 2-bit code selects, if any (R22, R26). -/
def Params.specialReg (p : Params) (code : BitVec 2) : Option SpecialReg :=
  if code = p.srIndex.pc then some .pc
  else if code = p.srIndex.lr then some .lr
  else if code = p.srIndex.ssp then some .ssp
  else none

/-- The bank `x` of LUIui exists: 0, 1 or 2 (R121). -/
def bankExists (x : BitVec 2) : Bool := x != 3

/-- The code names a special register (R26). -/
def Params.namesSpecial (p : Params) (code : BitVec 2) : Bool := (p.specialReg code).isSome

/-- The instruction's operands name what exists (R26, R74, R121). -/
def Instr.wellFormed (p : Params) : Instr → Bool
  | .nop => true
  | .movur _ _ => true
  | .mccur _ _ _ => true
  | .addur _ _ => true
  | .subur _ _ => true
  | .notur _ => true
  | .andur _ _ => true
  | .orur _ _ => true
  | .xorur _ _ => true
  | .shlur _ _ => true
  | .rolur _ _ => true
  | .shrur _ _ => true
  | .rorur _ _ => true
  | .cmpur _ _ => true
  | .tstur _ => true
  | .luiui x _ => bankExists x
  | .movui _ _ => true
  | .addui _ _ => true
  | .subui _ _ => true
  | .andui _ _ => true
  | .orui _ _ => true
  | .xorui _ _ => true
  | .shlui _ _ => true
  | .rolui _ _ => true
  | .shrui _ _ => true
  | .rorui _ _ => true
  | .cmpui _ _ => true
  | .addsr _ _ => true
  | .subsr _ _ => true
  | .negsr _ => true
  | .shrsr _ _ => true
  | .cmpsr _ _ => true
  | .tstsr _ => true
  | .movsi _ _ => true
  | .mccsi _ _ _ => true
  | .addsi _ _ => true
  | .subsi _ _ => true
  | .shrsi _ _ => true
  | .cmpsi _ _ => true
  | .ldur _ _ => true
  | .stur _ _ => true
  | .stui _ _ => true
  | .stsi _ _ => true
  | .ldso _ _ _ => true
  | .stso _ _ _ => true
  | .ldaso _ _ _ => true
  | .staso _ _ _ => true
  | .movaur _ _ _ => true
  | .movdur _ _ _ => true
  | .addaur _ _ => true
  | .subaur _ _ => true
  | .addasr _ _ => true
  | .subasr _ _ => true
  | .addasi _ _ => true
  | .subasi _ _ => true
  | .leaso _ _ _ => true
  | .adraso _ _ => true
  | .cmpaur _ _ => true
  | .tstaur _ => true
  | .btp => true
  | .jccur _ _ => true
  | .jccui _ _ => true
  | .bccsr _ _ => true
  | .bccso _ _ => true
  | .balso _ => true
  | .jsrur _ => true
  | .jsrui _ => true
  | .bsrsr _ => true
  | .bsrso _ => true
  | .ret => true
  | .pushur _ _ => true
  | .pushaur _ _ => true
  | .popur _ _ => true
  | .popaur _ _ => true
  | .csrrd _ _ => true
  | .csrwr _ _ => true
  | .srhlt => true
  | .setssp _ => true
  | .swi _ => true
  | .srmovur srt srs => p.namesSpecial srt && p.namesSpecial srs
  | .srmovaur srt _ => p.namesSpecial srt
  | .srjccso srt _ _ => p.namesSpecial srt
  | .sraddsi srt _ => p.namesSpecial srt
  | .srsubsi srt _ => p.namesSpecial srt
  | .srstso srt srs _ => p.namesSpecial srt && p.namesSpecial srs
  | .srldso srt srs _ => p.namesSpecial srt && p.namesSpecial srs

end Sys2Proof
end

