-- ==== Sys2Proof/Decode.lean ====
section
/-!
DEFINITION. The decoder, total on every 24-bit word and rejecting by name, and the encoder
(`spec/30_encoding.md`; every word is one instruction, R70, so there is no length to decode). Bits [23:20] are
the opclass and [19:16] the subop (R71, R84); the operands stand where the format says (R73); a word that
selects no instruction is `ReservedEncoding`, for one of the causes below (R76 to R79).
-/

namespace Sys2Proof

/-- Why a word is `ReservedEncoding` (R12, R270). -/
inductive ReservedCause where
  /-- A RESERVED bit is not zero, with `RESERVED_BITS_STRICT` (R76). -/
  | reservedBits
  /-- A subop with no entry in its opclass (R77); in opclass 1111 only with `UOP_CLASS_FETCHABLE` (log entry 25). -/
  | unassignedSubop
  /-- Opclass 1011, 1100, 1101 or 1110 (R78). -/
  | emptyOpclass
  /-- Opclass 1111 met by fetch, without `UOP_CLASS_FETCHABLE` (R79), the subops without an entry too (log entry 25). -/
  | uopNotFetchable
  /-- LUIui with x = 3 (R121). -/
  | noSuchBank
  /-- A special-register code that names no register (R26, R250). -/
  | noSpecialRegister
deriving DecidableEq, Repr

/-- The `n` bits of a word from bit `lo` up (R8). -/
def field (w : Word) (lo n : Nat) : BitVec n := w.extractLsb' lo n

/-- The `H|L` bit: "H=1, L=0" (R74). -/
def halfOf (b : BitVec 1) : Half := if b = 1 then .high else .low

/-- The bit of a half selector (R74). -/
def halfBit : Half → BitVec 1
  | .low => 0
  | .high => 1

/-- Some bit of the ranges `(hi, lo)` is not zero. -/
def anyBitSet (w : Word) (ranges : List (Nat × Nat)) : Bool :=
  ranges.any fun r => field w r.2 (r.1 + 1 - r.2) != 0

/-- The instruction, unless a RESERVED range `(hi, lo)` holds a bit that is not zero (R76, D17). -/
def checked (p : Params) (w : Word) (reserved : List (Nat × Nat)) (i : Instr) : Except ReservedCause Instr :=
  if p.reservedBitsStrict && anyBitSet w reserved then .error .reservedBits else .ok i

/-- Go on if every code names a special register (R26). -/
def named (p : Params) (codes : List (BitVec 2)) (next : Except ReservedCause Instr) :
    Except ReservedCause Instr :=
  if codes.all p.namesSpecial then next else .error .noSpecialRegister

/-- Opclass 0000: core ALU, register to register, unsigned flags (R73, R77). -/
def decodeClass0 (p : Params) (w : Word) : Except ReservedCause Instr :=
  match field w 16 4 with
  | 0x0 => checked p w [(15, 0)] .nop
  | 0x1 => checked p w [(7, 0)] (.movur (field w 12 4) (field w 8 4))
  | 0x2 => checked p w [(3, 0)] (.mccur (field w 12 4) (field w 8 4) (field w 4 4))
  | 0x3 => checked p w [(7, 0)] (.addur (field w 12 4) (field w 8 4))
  | 0x4 => checked p w [(7, 0)] (.subur (field w 12 4) (field w 8 4))
  | 0x5 => checked p w [(11, 0)] (.notur (field w 12 4))
  | 0x6 => checked p w [(7, 0)] (.andur (field w 12 4) (field w 8 4))
  | 0x7 => checked p w [(7, 0)] (.orur (field w 12 4) (field w 8 4))
  | 0x8 => checked p w [(7, 0)] (.xorur (field w 12 4) (field w 8 4))
  | 0x9 => checked p w [(7, 0)] (.shlur (field w 12 4) (field w 8 4))
  | 0xA => checked p w [(7, 0)] (.rolur (field w 12 4) (field w 8 4))
  | 0xB => checked p w [(7, 0)] (.shrur (field w 12 4) (field w 8 4))
  | 0xC => checked p w [(7, 0)] (.rorur (field w 12 4) (field w 8 4))
  | 0xD => checked p w [(7, 0)] (.cmpur (field w 12 4) (field w 8 4))
  | 0xE => checked p w [(11, 0)] (.tstur (field w 12 4))
  | _ => .error .unassignedSubop

/-- Opclass 0001: core ALU with immediate and `uimm` (R73, R77). -/
def decodeClass1 (p : Params) (w : Word) : Except ReservedCause Instr :=
  match field w 16 4 with
  | 0x0 => if bankExists (field w 14 2) then checked p w [(13, 12)] (.luiui (field w 14 2) (field w 0 12)) else .error .noSuchBank
  | 0x1 => checked p w [] (.movui (field w 12 4) (field w 0 12))
  | 0x3 => checked p w [] (.addui (field w 12 4) (field w 0 12))
  | 0x4 => checked p w [] (.subui (field w 12 4) (field w 0 12))
  | 0x6 => checked p w [] (.andui (field w 12 4) (field w 0 12))
  | 0x7 => checked p w [] (.orui (field w 12 4) (field w 0 12))
  | 0x8 => checked p w [] (.xorui (field w 12 4) (field w 0 12))
  | 0x9 => checked p w [(11, 5)] (.shlui (field w 12 4) (field w 0 5))
  | 0xA => checked p w [(11, 5)] (.rolui (field w 12 4) (field w 0 5))
  | 0xB => checked p w [(11, 5)] (.shrui (field w 12 4) (field w 0 5))
  | 0xC => checked p w [(11, 5)] (.rorui (field w 12 4) (field w 0 5))
  | 0xD => checked p w [] (.cmpui (field w 12 4) (field w 0 12))
  | _ => .error .unassignedSubop

/-- Opclass 0010: core ALU, register to register, signed flags (R73, R77). -/
def decodeClass2 (p : Params) (w : Word) : Except ReservedCause Instr :=
  match field w 16 4 with
  | 0x3 => checked p w [(7, 0)] (.addsr (field w 12 4) (field w 8 4))
  | 0x4 => checked p w [(7, 0)] (.subsr (field w 12 4) (field w 8 4))
  | 0x5 => checked p w [(11, 0)] (.negsr (field w 12 4))
  | 0xB => checked p w [(7, 0)] (.shrsr (field w 12 4) (field w 8 4))
  | 0xD => checked p w [(7, 0)] (.cmpsr (field w 12 4) (field w 8 4))
  | 0xE => checked p w [(11, 0)] (.tstsr (field w 12 4))
  | _ => .error .unassignedSubop

/-- Opclass 0011: core ALU, signed immediate (R73, R77). -/
def decodeClass3 (p : Params) (w : Word) : Except ReservedCause Instr :=
  match field w 16 4 with
  | 0x0 => checked p w [] (.movsi (field w 12 4) (field w 0 12))
  | 0x1 => checked p w [] (.mccsi (field w 12 4) (field w 8 4) (field w 0 8))
  | 0x3 => checked p w [] (.addsi (field w 12 4) (field w 0 12))
  | 0x4 => checked p w [] (.subsi (field w 12 4) (field w 0 12))
  | 0xB => checked p w [(11, 5)] (.shrsi (field w 12 4) (field w 0 5))
  | 0xD => checked p w [] (.cmpsi (field w 12 4) (field w 0 12))
  | _ => .error .unassignedSubop

/-- Opclass 0100: loads and stores, base only (R73, R77). -/
def decodeClass4 (p : Params) (w : Word) : Except ReservedCause Instr :=
  match field w 16 4 with
  | 0x0 => checked p w [(9, 0)] (.ldur (field w 12 4) (field w 10 2))
  | 0x1 => checked p w [(9, 0)] (.stur (field w 14 2) (field w 10 4))
  | 0x2 => checked p w [(13, 12)] (.stui (field w 14 2) (field w 0 12))
  | 0x3 => checked p w [] (.stsi (field w 14 2) (field w 0 14))
  | _ => .error .unassignedSubop

/-- Opclass 0101: loads and stores, base plus offset (R73, R77). -/
def decodeClass5 (p : Params) (w : Word) : Except ReservedCause Instr :=
  match field w 16 4 with
  | 0x0 => checked p w [] (.ldso (field w 12 4) (field w 10 2) (field w 0 10))
  | 0x1 => checked p w [] (.stso (field w 14 2) (field w 10 4) (field w 0 10))
  | 0x2 => checked p w [] (.ldaso (field w 14 2) (field w 12 2) (field w 0 12))
  | 0x3 => checked p w [] (.staso (field w 14 2) (field w 12 2) (field w 0 12))
  | _ => .error .unassignedSubop

/-- Opclass 0110: address-register ALU and moves (R73, R77). -/
def decodeClass6 (p : Params) (w : Word) : Except ReservedCause Instr :=
  match field w 16 4 with
  | 0x1 => checked p w [(8, 0)] (.movaur (field w 14 2) (field w 10 4) (halfOf (field w 9 1)))
  | 0x2 => checked p w [(8, 0)] (.movdur (field w 12 4) (field w 10 2) (halfOf (field w 9 1)))
  | 0x3 => checked p w [(9, 0)] (.addaur (field w 14 2) (field w 10 4))
  | 0x4 => checked p w [(9, 0)] (.subaur (field w 14 2) (field w 10 4))
  | 0x5 => checked p w [(9, 0)] (.addasr (field w 14 2) (field w 10 4))
  | 0x6 => checked p w [(9, 0)] (.subasr (field w 14 2) (field w 10 4))
  | 0x7 => checked p w [(13, 12)] (.addasi (field w 14 2) (field w 0 12))
  | 0x8 => checked p w [(13, 12)] (.subasi (field w 14 2) (field w 0 12))
  | 0x9 => checked p w [] (.leaso (field w 14 2) (field w 12 2) (field w 0 12))
  | 0xA => checked p w [] (.adraso (field w 14 2) (field w 0 14))
  | 0xD => checked p w [(11, 0)] (.cmpaur (field w 14 2) (field w 12 2))
  | 0xE => checked p w [(13, 0)] (.tstaur (field w 14 2))
  | _ => .error .unassignedSubop

/-- Opclass 0111: control flow and linkage (R73, R77). -/
def decodeClass7 (p : Params) (w : Word) : Except ReservedCause Instr :=
  match field w 16 4 with
  | 0x0 => checked p w [(15, 0)] .btp
  | 0x1 => checked p w [(9, 0)] (.jccur (field w 14 2) (field w 10 4))
  | 0x2 => checked p w [] (.jccui (field w 12 4) (field w 0 12))
  | 0x3 => checked p w [(7, 0)] (.bccsr (field w 12 4) (field w 8 4))
  | 0x4 => checked p w [] (.bccso (field w 12 4) (field w 0 12))
  | 0x5 => checked p w [] (.balso (field w 0 16))
  | 0x6 => checked p w [(13, 0)] (.jsrur (field w 14 2))
  | 0x7 => checked p w [(15, 12)] (.jsrui (field w 0 12))
  | 0x8 => checked p w [(11, 0)] (.bsrsr (field w 12 4))
  | 0x9 => checked p w [] (.bsrso (field w 0 16))
  | 0xA => checked p w [(15, 0)] .ret
  | _ => .error .unassignedSubop

/-- Opclass 1000: stack helpers (R73, R77). -/
def decodeClass8 (p : Params) (w : Word) : Except ReservedCause Instr :=
  match field w 16 4 with
  | 0x0 => checked p w [(9, 0)] (.pushur (field w 14 2) (field w 10 4))
  | 0x1 => checked p w [(11, 0)] (.pushaur (field w 14 2) (field w 12 2))
  | 0x2 => checked p w [(9, 0)] (.popur (field w 12 4) (field w 10 2))
  | 0x3 => checked p w [(11, 0)] (.popaur (field w 14 2) (field w 12 2))
  | _ => .error .unassignedSubop

/-- Opclass 1001: CSR access (R73, R77). -/
def decodeClass9 (p : Params) (w : Word) : Except ReservedCause Instr :=
  match field w 16 4 with
  | 0x0 => checked p w [(11, 8)] (.csrrd (field w 12 4) (field w 0 8))
  | 0x1 => checked p w [(15, 14), (9, 8)] (.csrwr (field w 10 4) (field w 0 8))
  | _ => .error .unassignedSubop

/-- Opclass 1010: privileged / kernel-only (R73, R77). -/
def decodeClassA (p : Params) (w : Word) : Except ReservedCause Instr :=
  match field w 16 4 with
  | 0x0 => checked p w [(15, 0)] .srhlt
  | 0x1 => checked p w [(13, 0)] (.setssp (field w 14 2))
  | 0x2 => checked p w [(15, 12)] (.swi (field w 0 12))
  | _ => .error .unassignedSubop

/-- Opclass 1111: micro-operations, once the class is fetchable (R79) (R73, R77). -/
def decodeClassF (p : Params) (w : Word) : Except ReservedCause Instr :=
  match field w 16 4 with
  | 0x0 => named p [field w 14 2, field w 12 2] (checked p w [(11, 0)] (.srmovur (field w 14 2) (field w 12 2)))
  | 0x1 => named p [field w 14 2] (checked p w [(11, 0)] (.srmovaur (field w 14 2) (field w 12 2)))
  | 0x2 => named p [field w 14 2] (checked p w [] (.srjccso (field w 14 2) (field w 10 4) (field w 0 10)))
  | 0x3 => named p [field w 14 2] (checked p w [] (.sraddsi (field w 14 2) (field w 0 14)))
  | 0x4 => named p [field w 14 2] (checked p w [] (.srsubsi (field w 14 2) (field w 0 14)))
  | 0x5 => named p [field w 14 2, field w 12 2] (checked p w [] (.srstso (field w 14 2) (field w 12 2) (field w 0 12)))
  | 0x6 => named p [field w 14 2, field w 12 2] (checked p w [] (.srldso (field w 14 2) (field w 12 2) (field w 0 12)))
  | _ => .error .unassignedSubop

/-- The instruction a fetched word is, or why it is none (R71, R76 to R79). The words 0xF70000 to 0xFFFFFF without
`UOP_CLASS_FETCHABLE` are both of opclass 1111 (R79, R250, U6: refuse) and of a subop without an entry (R77, U4: fault at
a computed jump), and the spec does not say which holds: the model names `uopNotFetchable`, so such a word is refused.
DESIGN CHOICE, log entry 25. -/
def decode (p : Params) (w : Word) : Except ReservedCause Instr :=
  match field w 20 4 with
  | 0x0 => decodeClass0 p w
  | 0x1 => decodeClass1 p w
  | 0x2 => decodeClass2 p w
  | 0x3 => decodeClass3 p w
  | 0x4 => decodeClass4 p w
  | 0x5 => decodeClass5 p w
  | 0x6 => decodeClass6 p w
  | 0x7 => decodeClass7 p w
  | 0x8 => decodeClass8 p w
  | 0x9 => decodeClass9 p w
  | 0xA => decodeClassA p w
  | 0xF => if p.uopClassFetchable then decodeClassF p w else .error .uopNotFetchable
  | _ => .error .emptyOpclass

/-- The parameters under which a word is looked up in the whole opcode table: opclass 1111 counts too (log
entry 9). -/
def tableParams (p : Params) (w : Word) : Params :=
  if field w 20 4 = 0xF then { p with uopClassFetchable := true } else p

/-- The word of an instruction whose bits, as the opcode table numbers them, are `w` of `nbits` bits. -/
def tableWord (nbits w : Nat) : Word := BitVec.ofNat 24 (w % 2 ^ nbits)

/-- What the decoder reads from a word of the opcode table (the host's question). -/
def decodeTableWord (nbits w : Nat) : Option Instr :=
  match decode (tableParams Machine.defaultParams (tableWord nbits w)) (tableWord nbits w) with
  | .ok i => some i
  | .error _ => none

/-- The word of an instruction: its opclass and subop, its fields, and zeros in the RESERVED bits (R73, R76). -/
def encode : Instr → Word
  | .nop => 0x00#8 ++ 0#16
  | .movur drt drs => 0x01#8 ++ drt ++ drs ++ 0#8
  | .mccur drt drs cc => 0x02#8 ++ drt ++ drs ++ cc ++ 0#4
  | .addur drt drs => 0x03#8 ++ drt ++ drs ++ 0#8
  | .subur drt drs => 0x04#8 ++ drt ++ drs ++ 0#8
  | .notur drt => 0x05#8 ++ drt ++ 0#12
  | .andur drt drs => 0x06#8 ++ drt ++ drs ++ 0#8
  | .orur drt drs => 0x07#8 ++ drt ++ drs ++ 0#8
  | .xorur drt drs => 0x08#8 ++ drt ++ drs ++ 0#8
  | .shlur drt drs => 0x09#8 ++ drt ++ drs ++ 0#8
  | .rolur drt drs => 0x0A#8 ++ drt ++ drs ++ 0#8
  | .shrur drt drs => 0x0B#8 ++ drt ++ drs ++ 0#8
  | .rorur drt drs => 0x0C#8 ++ drt ++ drs ++ 0#8
  | .cmpur drt drs => 0x0D#8 ++ drt ++ drs ++ 0#8
  | .tstur drt => 0x0E#8 ++ drt ++ 0#12
  | .luiui x imm => 0x10#8 ++ x ++ 0#2 ++ imm
  | .movui drt imm => 0x11#8 ++ drt ++ imm
  | .addui drt imm => 0x13#8 ++ drt ++ imm
  | .subui drt imm => 0x14#8 ++ drt ++ imm
  | .andui drt imm => 0x16#8 ++ drt ++ imm
  | .orui drt imm => 0x17#8 ++ drt ++ imm
  | .xorui drt imm => 0x18#8 ++ drt ++ imm
  | .shlui drt imm => 0x19#8 ++ drt ++ 0#7 ++ imm
  | .rolui drt imm => 0x1A#8 ++ drt ++ 0#7 ++ imm
  | .shrui drt imm => 0x1B#8 ++ drt ++ 0#7 ++ imm
  | .rorui drt imm => 0x1C#8 ++ drt ++ 0#7 ++ imm
  | .cmpui drt imm => 0x1D#8 ++ drt ++ imm
  | .addsr drt drs => 0x23#8 ++ drt ++ drs ++ 0#8
  | .subsr drt drs => 0x24#8 ++ drt ++ drs ++ 0#8
  | .negsr drt => 0x25#8 ++ drt ++ 0#12
  | .shrsr drt drs => 0x2B#8 ++ drt ++ drs ++ 0#8
  | .cmpsr drt drs => 0x2D#8 ++ drt ++ drs ++ 0#8
  | .tstsr drt => 0x2E#8 ++ drt ++ 0#12
  | .movsi drt imm => 0x30#8 ++ drt ++ imm
  | .mccsi drt cc imm => 0x31#8 ++ drt ++ cc ++ imm
  | .addsi drt imm => 0x33#8 ++ drt ++ imm
  | .subsi drt imm => 0x34#8 ++ drt ++ imm
  | .shrsi drt imm => 0x3B#8 ++ drt ++ 0#7 ++ imm
  | .cmpsi drt imm => 0x3D#8 ++ drt ++ imm
  | .ldur drt ars => 0x40#8 ++ drt ++ ars ++ 0#10
  | .stur art drs => 0x41#8 ++ art ++ drs ++ 0#10
  | .stui art imm => 0x42#8 ++ art ++ 0#2 ++ imm
  | .stsi art imm => 0x43#8 ++ art ++ imm
  | .ldso drt ars imm => 0x50#8 ++ drt ++ ars ++ imm
  | .stso art drs imm => 0x51#8 ++ art ++ drs ++ imm
  | .ldaso art ars imm => 0x52#8 ++ art ++ ars ++ imm
  | .staso art ars imm => 0x53#8 ++ art ++ ars ++ imm
  | .movaur art drs half => 0x61#8 ++ art ++ drs ++ halfBit half ++ 0#9
  | .movdur drt ars half => 0x62#8 ++ drt ++ ars ++ halfBit half ++ 0#9
  | .addaur art drs => 0x63#8 ++ art ++ drs ++ 0#10
  | .subaur art drs => 0x64#8 ++ art ++ drs ++ 0#10
  | .addasr art drs => 0x65#8 ++ art ++ drs ++ 0#10
  | .subasr art drs => 0x66#8 ++ art ++ drs ++ 0#10
  | .addasi art imm => 0x67#8 ++ art ++ 0#2 ++ imm
  | .subasi art imm => 0x68#8 ++ art ++ 0#2 ++ imm
  | .leaso art ars imm => 0x69#8 ++ art ++ ars ++ imm
  | .adraso art imm => 0x6A#8 ++ art ++ imm
  | .cmpaur art ars => 0x6D#8 ++ art ++ ars ++ 0#12
  | .tstaur art => 0x6E#8 ++ art ++ 0#14
  | .btp => 0x70#8 ++ 0#16
  | .jccur art cc => 0x71#8 ++ art ++ cc ++ 0#10
  | .jccui cc imm => 0x72#8 ++ cc ++ imm
  | .bccsr drt cc => 0x73#8 ++ drt ++ cc ++ 0#8
  | .bccso cc imm => 0x74#8 ++ cc ++ imm
  | .balso imm => 0x75#8 ++ imm
  | .jsrur art => 0x76#8 ++ art ++ 0#14
  | .jsrui imm => 0x77#8 ++ 0#4 ++ imm
  | .bsrsr drt => 0x78#8 ++ drt ++ 0#12
  | .bsrso imm => 0x79#8 ++ imm
  | .ret => 0x7A#8 ++ 0#16
  | .pushur art drs => 0x80#8 ++ art ++ drs ++ 0#10
  | .pushaur art ars => 0x81#8 ++ art ++ ars ++ 0#12
  | .popur drt ars => 0x82#8 ++ drt ++ ars ++ 0#10
  | .popaur art ars => 0x83#8 ++ art ++ ars ++ 0#12
  | .csrrd drt csr => 0x90#8 ++ drt ++ 0#4 ++ csr
  | .csrwr drs csr => 0x91#8 ++ 0#2 ++ drs ++ 0#2 ++ csr
  | .srhlt => 0xA0#8 ++ 0#16
  | .setssp ars => 0xA1#8 ++ ars ++ 0#14
  | .swi imm => 0xA2#8 ++ 0#4 ++ imm
  | .srmovur srt srs => 0xF0#8 ++ srt ++ srs ++ 0#12
  | .srmovaur srt ars => 0xF1#8 ++ srt ++ ars ++ 0#12
  | .srjccso srt cc imm => 0xF2#8 ++ srt ++ cc ++ imm
  | .sraddsi srt imm => 0xF3#8 ++ srt ++ imm
  | .srsubsi srt imm => 0xF4#8 ++ srt ++ imm
  | .srstso srt srs imm => 0xF5#8 ++ srt ++ srs ++ imm
  | .srldso srt srs imm => 0xF6#8 ++ srt ++ srs ++ imm

end Sys2Proof
end

