-- ==== Sys2Proof/Machine/Memory.lean ====
section
/-!
DEFINITION. Memory as plain data: the written cells of the one address space (`spec/20_memory.md` R50, R51), as
a list of pairs of an address and a 24-bit cell in one canonical form, addresses strictly rising and below 2^48.
The smallest addressable unit is the cell; the machine has no bytes (R50, R54). An unlisted address holds no
value: the spec gives a cell that nothing has written an unspecified content (R44, R45; log entry 13).
-/

namespace Sys2Proof.Machine

/-- The cells that hold a value, by rising address (R50). -/
abbrev Memory := List (Nat × Word)

/-- What an address that the list does not name reads as: nothing (R45; log entry 13). -/
def unlistedCell : Option Word := none

/-- The content of one cell (R52). -/
def readCell : Memory → Nat → Option Word
  | [], _ => unlistedCell
  | (k, v) :: m, a => if a = k then some v else readCell m a

/-- Replace the content of one cell (R52), keeping the list's order. -/
def writeCell : Memory → Nat → Word → Memory
  | [], a, v => [(a, v)]
  | (k, u) :: m, a, v =>
    if a < k then (a, v) :: (k, u) :: m
    else if a = k then (a, v) :: m
    else (k, u) :: writeCell m a v

/-- The addresses rise strictly from `lo` on and stay below 2^48. -/
def memoryWfFrom : Nat → Memory → Bool
  | _, [] => true
  | lo, (k, _) :: m => decide (lo ≤ k) && decide (k < 2 ^ 48) && memoryWfFrom (k + 1) m

/-- The canonical form. No entry equals what an unlisted address reads as, since that is no value. -/
def Memory.wf (m : Memory) : Bool := memoryWfFrom 0 m

/-- Add an address to a rising list of addresses. -/
def addAddress : List Nat → Nat → List Nat
  | [], a => [a]
  | k :: l, a => if a < k then a :: k :: l else if a = k then k :: l else k :: addAddress l a

/-- The addresses rise strictly from `lo` on and stay below 2^48. -/
def addressesWfFrom : Nat → List Nat → Bool
  | _, [] => true
  | lo, k :: l => decide (lo ≤ k) && decide (k < 2 ^ 48) && addressesWfFrom (k + 1) l

end Sys2Proof.Machine
end

