-- ==== Sys2Proof/Machine/State.lean ====
section
/-!
DEFINITION. The machine's state (`spec/10_state.md`), the reasons a step can stop (`spec/00_scope.md` R12), and the
state after reset (R44, R301).
-/

namespace Sys2Proof.Machine

/-- The model outcomes that end a run as a fault or as its end (R12, R270). -/
inductive Fault where
  /-- `Undefined(UimmNotLoaded)`: raised by the eleven consumers of `uimm` when a bank they read was not loaded by
  the run of LUIui just before (R36, R120). Safe: the source calls the behaviour undefined. -/
  | uimmNotLoaded
  /-- `NoMemory(addr)`: raised by a fetch, read or write that `mem_admits` rejects (R58). The stuck state
  of R12 and U17, written as a fault of this name (log entry 4). Safe: the model goes no further where the spec defines
  nothing. -/
  | noMemory (addr : Addr)
  /-- Raised by a fetch or read of a cell that nothing has written (R45, U14). Safe: the content is unspecified. -/
  | unwrittenMemory (addr : Addr)
  /-- `ReservedEncoding(word)` where `93_implementation_defined.md` treats it as a fault: raised by a step whose fetched
  word is of an empty opclass (R78, U5) or has an unassigned subop (R77, U4; log entry 30). Safe: the word has no
  meaning. -/
  | reservedEncoding (word : Word) (cause : ReservedCause)
  /-- `Halted`: raised by a step after SRHLT has executed; the normal end of a run (R241, U16). Safe. -/
  | halted
deriving DecidableEq, Repr

/-- The model outcomes that refuse the program (R12, R270). -/
inductive Refusal where
  /-- Raised by `exec` for an instruction without a meaning; no arm is left that does. Safe. -/
  | notModelled (mnemonic : String)
  /-- `ReservedEncoding(word)` where R12 and `93_implementation_defined.md` treat it as a refusal: raised by a step whose
  fetched word has a RESERVED bit set (R76, U2), is LUIui with x = 3 (R121, U3), is of opclass 1111 (R79, U6) or names
  no special register (R26, U13), by a meaning with such an operand, and by the check of a program text at load (U2,
  U4, `refusedAtLoad`; log entry 30). Safe. -/
  | reservedEncoding (word : Word) (cause : ReservedCause)
  /-- `Undefined(CondReserved)`: raised by a conditional instruction whose code the table in use gives no meaning
  (R43, U8), and by the check of a program text at load for such an instruction (`refusedAtLoad`; log entry 31). Safe. -/
  | condReserved (cc : BitVec 4)
  /-- Raised by the fetch of a cell the program has stored to, when `IFETCH_COHERENT` is false (R64, U18). Safe. -/
  | storedCellFetched (addr : Addr)
  /-- Raised by the check of a program text at load (`refusedAtLoad`), by no step: the word at the address is a consumer
  of `uimm`, and the LUIui just before it in the text do not load every bank it reads (R310, U1; log entry 31). Safe. -/
  | luiRunMissing (addr : Addr)
  /-- Raised by the check of a program text at load (`refusedAtLoad`), by no step: reset or a branch whose target is in
  its text leads to the address, which is inside a run of LUIui and its consumer (R310; log entry 31). Safe. -/
  | luiRunEntered (addr : Addr)
deriving DecidableEq, Repr

/-- The state of the machine. -/
structure State where
  /-- The parameters of the model; no instruction changes them. The model's own field (log entry 1). -/
  params : Params
  /-- `DR[0]` to `DR[15]` (R20). -/
  dr : Vector Word 16
  /-- `AR[0]` to `AR[3]` (R21). -/
  ar : Vector Addr 4
  /-- `PC`: between steps, the address of the next instruction (R23). -/
  pc : Addr
  /-- `LR` (R24). -/
  lr : Addr
  /-- `SSP` (R25). -/
  ssp : Addr
  /-- The fourth special register: named by no list, reached by nothing (R26, R44). -/
  sr3 : Addr
  /-- `Z`, `C`, `N`, `V` (R27). -/
  flags : Flags
  /-- `bank[0..2]` of `uimm` (R35). -/
  bank : Vector Bank 3
  /-- `loaded[0..2]` (R36). -/
  loaded : Vector Bool 3
  /-- `CSR[0..255]` (R37). -/
  csr : Vector Word 256
  /-- `halted` (R38). -/
  halted : Bool
  /-- Memory (R50). -/
  mem : Memory
  /-- The addresses the program has stored to, which `IFETCH_COHERENT` = false needs (R64). The model's own field
  (log entry 8). -/
  stored : List Nat
  /-- How many free values have been drawn. The model's own field (log entry 5). -/
  draws : Nat
deriving DecidableEq, Repr

/-- No bank loaded: `loaded = 000` (R36). -/
def noneLoaded : Vector Bool 3 := Vector.replicate 3 false

/-- The state after reset under given parameters: `PC = RESET_PC`, `halted = 0`, `loaded = 000` (R44, R301). What
the spec leaves unspecified is zero, and no cell holds a value. DESIGN CHOICE, log entries 11 to 13. -/
def State.resetWith (p : Params) : State :=
  { params := p
    dr := Vector.replicate 16 0
    ar := Vector.replicate 4 0
    pc := p.resetPc
    lr := 0
    ssp := 0
    sr3 := 0
    flags := { z := false, c := false, n := false, v := false }
    bank := Vector.replicate 3 0
    loaded := noneLoaded
    csr := Vector.replicate 256 0
    halted := false
    mem := []
    stored := []
    draws := 0 }

/-- The state after reset under the default parameters (R44, R301). -/
def State.reset : State := State.resetWith defaultParams

end Sys2Proof.Machine
end

