-- ==== Sys2Proof/Machine/Operands.lean ====
section
/-!
DEFINITION. Operand forms: register operands, the extension of immediates (`spec/30_encoding.md` R75), the operands
completed by `uimm` (`spec/10_state.md` R35), condition fields (R42), shift counts (R33), the halves of an address register (R181) and
effective addresses (`spec/20_memory.md` R57).
-/

namespace Sys2Proof.Machine

/-- `DR[i]` (R10, R20). -/
def State.getDr (s : State) (i : BitVec 4) : Word := s.dr[i.toNat]'i.isLt

/-- `DR[i] <- v` (R10, R20): no data register is hardwired. -/
def State.setDr (s : State) (i : BitVec 4) (v : Word) : State := { s with dr := s.dr.set i.toNat v i.isLt }

/-- `AR[i]` (R10, R21). -/
def State.getAr (s : State) (i : BitVec 2) : Addr := s.ar[i.toNat]'i.isLt

/-- `AR[i] <- v` (R10, R21). -/
def State.setAr (s : State) (i : BitVec 2) (v : Addr) : State := { s with ar := s.ar.set i.toNat v i.isLt }

/-- A named special register (R22). Reading PC gives the address of the instruction that executes (R250). -/
def State.getSr (s : State) : SpecialReg → Addr
  | .pc => s.pc
  | .lr => s.lr
  | .ssp => s.ssp

/-- Write a named special register (R22). -/
def State.setSr (s : State) (r : SpecialReg) (v : Addr) : State :=
  match r with
  | .pc => { s with pc := v }
  | .lr => { s with lr := v }
  | .ssp => { s with ssp := v }

/-- `sext_24(v)` (R9). -/
def sext24 {n : Nat} (v : BitVec n) : Word := v.signExtend 24

/-- `sext_48(v)` (R9). -/
def sext48 {n : Nat} (v : BitVec n) : Addr := v.signExtend 48

/-- `zext_48(v)` (R9). -/
def zext48 {n : Nat} (v : BitVec n) : Addr := v.setWidth 48

/-- `add48(a, b)` (R11). -/
def add48 (a b : Addr) : Addr := a + b

/-- `sub48(a, b)` (R11). -/
def sub48 (a b : Addr) : Addr := a - b

/-- The 24-bit operand with bank 0 above the instruction's 12 bits (R35, R120). -/
def State.uimm24 (s : State) (imm : BitVec 12) : Word := s.bank[0] ++ imm

/-- The 48-bit address with banks 2, 1, 0 above the instruction's 12 bits (R35). -/
def State.uimm48 (s : State) (imm : BitVec 12) : Addr := s.bank[2] ++ s.bank[1] ++ s.bank[0] ++ imm

/-- The banks an instruction reads, none for one that is no consumer of `uimm` (R35). -/
def banksRead : Instr → List (Fin 3)
  | .movui _ _ | .addui _ _ | .subui _ _ | .andui _ _ | .orui _ _ | .xorui _ _ | .cmpui _ _ | .stui _ _ => [0]
  | .jccui _ _ | .jsrui _ | .swi _ => [0, 1, 2]
  | _ => []

/-- The condition field of an instruction, if it has one (R42). -/
def conditionOf : Instr → Option (BitVec 4)
  | .mccur _ _ cc | .mccsi _ cc _ | .jccur _ cc | .jccui cc _ | .bccsr _ cc | .bccso cc _ | .srjccso _ cc _ => some cc
  | _ => none

/-- The count `DR[s][4:0]` (R33). -/
def countOf (v : Word) : Nat := (v.extractLsb' 0 5).toNat

/-- A half of an address register: L is bits 23 to 0, H is bits 47 to 24 (R21). -/
def halfOfAddr (a : Addr) : Half → Word
  | .low => a.extractLsb' 0 24
  | .high => a.extractLsb' 24 24

/-- Replace one half of an address register and keep the other (R181). -/
def withHalf (a : Addr) (v : Word) : Half → Addr
  | .low => halfOfAddr a .high ++ v
  | .high => v ++ halfOfAddr a .low

/-- The address `base + sext(immN)`, modulo 2^48 (R57, R160). -/
def offsetAddr {n : Nat} (base : Addr) (imm : BitVec n) : Addr := add48 base (sext48 imm)

end Sys2Proof.Machine
end

