-- ==== Sys2Proof/Machine/Ops.lean ====
section
/-!
DEFINITION. The named operations every meaning is made of: memory accesses (`spec/20_memory.md` R52 to R58), the
checks that can end an instruction (R36, R42), the end of a step (R40), control-register access (R37) and the link
sequence (R212).

TAKING AN EXCEPTION: the machine has none. It raises no synchronous exception, takes no interrupt and has no trap
entry or return (`spec/60_exceptions.md` R270, R271, R273, R275), so there is no shared operation that enters one;
SWI is an unconditional jump with a return address (R274) and stands with its class in `Machine/Privileged.lean`.
-/

namespace Sys2Proof.Machine

/-- What an operation answers: a result, or the outcome that ends the step (R12). -/
abbrev Run (α : Type) := Host.Outcome α Fault Refusal

/-- Do `f` with the result of `x`, unless `x` ends the step (R41: in the order written). -/
def andThen {α β : Type} (x : Run α) (f : α → Run β) : Run β :=
  match x with
  | .next a => f a
  | .fault r => .fault r
  | .refused r => .refused r

/-! ## The end of a step (R40, steps 4 and 5) -/

/-- Continue at `target`: no bank counts as loaded any more (R40, R36). -/
def completeAt (target : Addr) (s : State) : Run State :=
  .next { s with pc := target, loaded := noneLoaded }

/-- Continue at `pc + 1`, modulo 2^48 (R40, R23). -/
def complete (s : State) : Run State := completeAt (add48 s.pc 1) s

/-- The end of LUIui, the one instruction that keeps `loaded` (R40 step 5). -/
def completeLui (s : State) : Run State := .next { s with pc := add48 s.pc 1 }

/-- Write a special register as the last effect: writing PC is a control transfer (R250). -/
def completeSr (r : SpecialReg) (v : Addr) (s : State) : Run State :=
  match r with
  | .pc => completeAt v s
  | .lr => complete (s.setSr .lr v)
  | .ssp => complete (s.setSr .ssp v)

/-! ## Results with their flags -/

/-- Write DRt and the flags of `{Z}` (R27, R29). -/
def State.resultZ (s : State) (t : BitVec 4) (r : Word) : State :=
  { s.setDr t r with flags := flagsZ r s.flags }

/-- Write DRt and the flags of `{Z, C}` (R27, R30). -/
def State.resultZC (s : State) (t : BitVec 4) (r : Word) (c : Bool) : State :=
  { s.setDr t r with flags := flagsZC r c s.flags }

/-- Write DRt and the flags of `{Z, N}` (R27, R31). -/
def State.resultZN (s : State) (t : BitVec 4) (r : Word) : State :=
  { s.setDr t r with flags := flagsZN r s.flags }

/-- Write DRt and the flags of `{Z, N, V}` (R27, R31). -/
def State.resultZNV (s : State) (t : BitVec 4) (r : Word) (v : Bool) : State :=
  { s.setDr t r with flags := flagsZNV r v s.flags }

/-- Write DRt and the flags of `{Z, N, C}` (R27, R33). -/
def State.resultZNC (s : State) (t : BitVec 4) (r : Word) (c : Bool) : State :=
  { s.setDr t r with flags := flagsZNC r c s.flags }

/-- Write flags only (compares and tests). -/
def State.withFlags (s : State) (f : Flags) : State := { s with flags := f }

/-! ## The families of data operations -/

/-- Move `v` to DRt: `DR[t] <- v; Z <- (v == 0)`. Also the end of NOT, AND, OR, XOR (R102, R106 to R109). -/
def moveZ (t : BitVec 4) (v : Word) (s : State) : Run State := complete (s.resultZ t v)

/-- `DR[t] += k` with `{Z, C}` (R104). -/
def addZC (t : BitVec 4) (k : Word) (s : State) : Run State :=
  let a := add24 (s.getDr t) k
  complete (s.resultZC t a.r a.carry)

/-- `DR[t] -= k` with `{Z, C}` (R105). -/
def subZC (t : BitVec 4) (k : Word) (s : State) : Run State :=
  let d := sub24 (s.getDr t) k
  complete (s.resultZC t d.r d.borrow)

/-- The flags `{Z, C}` of `DR[t] - k` (R114). -/
def compareZC (t : BitVec 4) (k : Word) (s : State) : Run State :=
  let d := sub24 (s.getDr t) k
  complete (s.withFlags (flagsZC d.r d.borrow s.flags))

/-- `DR[t] += k` with `{Z, N, V}` (R141). -/
def addZNV (t : BitVec 4) (k : Word) (s : State) : Run State :=
  let a := add24 (s.getDr t) k
  complete (s.resultZNV t a.r a.ovf)

/-- `DR[t] <- a - k` with `{Z, N, V}`: SUBsr, SUBsi with `a = DR[t]`, NEGsr with `a = 0` (R142, R143). -/
def subZNV (t : BitVec 4) (a k : Word) (s : State) : Run State :=
  let d := sub24 a k
  complete (s.resultZNV t d.r d.ovf)

/-- The flags `{Z, N, V}` of `DR[t] - k` (R145). -/
def compareZNV (t : BitVec 4) (k : Word) (s : State) : Run State :=
  let d := sub24 (s.getDr t) k
  complete (s.withFlags (flagsZNV d.r d.ovf s.flags))

/-- A shift or rotation of DRt by `n` with `{Z, C}`; for `n = 0` nothing is written (R33, R34). -/
def shiftZC (op : Word → Nat → Shifted) (t : BitVec 4) (n : Nat) (s : State) : Run State :=
  if n = 0 then complete s
  else
    let x := op (s.getDr t) n
    complete (s.resultZC t x.r x.c)

/-- The arithmetic right shift of DRt by `n` with `{Z, N, C}`; for `n = 0` nothing is written (R33, R144). -/
def shiftZNC (t : BitVec 4) (n : Nat) (s : State) : Run State :=
  if n = 0 then complete s
  else
    let x := sar (s.getDr t) n
    complete (s.resultZNC t x.r x.c)

/-! ## Checks -/

/-- `need_uimm(b0, b1, …)`: every listed bank was loaded (R10, R36). -/
def needUimm (banks : List (Fin 3)) (s : State) (go : Run State) : Run State :=
  if banks.all fun b => s.loaded[b] then go else .fault .uimmNotLoaded

/-- Do one thing if the condition holds and the other if not, on the flags before the instruction; a code
without a meaning is `Undefined(CondReserved)` (R42, R43). -/
def whenCond (cc : BitVec 4) (s : State) (holds notHolds : Run State) : Run State :=
  match ccHolds s.params cc s.flags with
  | some true => holds
  | some false => notHolds
  | none => .refused (.condReserved cc)

/-- Go on with the special register a code names; none is `ReservedEncoding` (R26, R250). -/
def withSr (i : Instr) (code : BitVec 2) (s : State) (go : SpecialReg → Run State) : Run State :=
  match s.params.specialReg code with
  | some r => go r
  | none => .refused (.reservedEncoding (encode i) .noSpecialRegister)

/-- `raise ReservedEncoding(word)` by a fetched word, treated as R12 says, which is as `93_implementation_defined.md`
says: a fault for the empty opclasses (U5) and for an unassigned subop that a run reaches (U4), a refusal for a RESERVED
bit (U2), LUIui with x = 3 (U3), opclass 1111 (U6) and an unnamed special register (U13). Log entry 30. -/
def raiseReserved (w : Word) (cause : ReservedCause) : Run State :=
  match cause with
  | .emptyOpclass => .fault (.reservedEncoding w .emptyOpclass)
  | .unassignedSubop => .fault (.reservedEncoding w .unassignedSubop)
  | .reservedBits => .refused (.reservedEncoding w .reservedBits)
  | .noSuchBank => .refused (.reservedEncoding w .noSuchBank)
  | .uopNotFetchable => .refused (.reservedEncoding w .uopNotFetchable)
  | .noSpecialRegister => .refused (.reservedEncoding w .noSpecialRegister)

/-! ## Memory accesses -/

/-- `MemRead(a, 1)` (R52): the cell must be admitted (R58) and hold a value (R45). -/
def memRead (a : Addr) (s : State) : Run Word :=
  if memAdmits s.params a .read then
    match readCell s.mem a.toNat with
    | some v => .next v
    | none => .fault (.unwrittenMemory a)
  else .fault (.noMemory a)

/-- `MemWrite(a, 1, v)` (R52): the cell must be admitted (R58). -/
def memWrite (a : Addr) (v : Word) (s : State) : Run State :=
  if memAdmits s.params a .write then
    .next { s with mem := writeCell s.mem a.toNat v, stored := addAddress s.stored a.toNat }
  else .fault (.noMemory a)

/-- A 48-bit value from the contents of the cells `a` and `a + 1`: `WIDE_LOW_FIRST` says which is the low half
(R53, D6). -/
def joinCells (p : Params) (first second : Word) : Addr :=
  if p.wideLowFirst then second ++ first else first ++ second

/-- What the cell `a` of a two-cell value holds (R53, D6). -/
def firstCell (p : Params) (v : Addr) : Word := halfOfAddr v (if p.wideLowFirst then .low else .high)

/-- What the cell `a + 1` of a two-cell value holds (R53, D6). -/
def secondCell (p : Params) (v : Addr) : Word := halfOfAddr v (if p.wideLowFirst then .high else .low)

/-- `MemRead(a, 2)`: the cells `a` and `a + 1` modulo 2^48, in this order (R53, R55, R56). -/
def memReadWide (a : Addr) (s : State) : Run Addr :=
  andThen (memRead a s) fun first =>
    andThen (memRead (add48 a 1) s) fun second => .next (joinCells s.params first second)

/-- `MemWrite(a, 2, v)`: the cells `a` and `a + 1` modulo 2^48, in this order (R53, R55, R56). -/
def memWriteWide (a : Addr) (v : Addr) (s : State) : Run State :=
  andThen (memWrite a (firstCell s.params v) s) fun s' =>
    memWrite (add48 a 1) (secondCell s.params v) s'

/-- The fetch: one cell at PC (R40 step 1, R66). With `IFETCH_COHERENT` false, a cell the program has stored to is
refused (R64, U18). -/
def fetch (s : State) : Run Word :=
  if memAdmits s.params s.pc .fetch then
    match readCell s.mem s.pc.toNat with
    | some w =>
      if s.params.ifetchCoherent then .next w
      else if s.stored.contains s.pc.toNat then .refused (.storedCellFetched s.pc)
      else .next w
    | none => .fault (.unwrittenMemory s.pc)
  else .fault (.noMemory s.pc)

/-! ## Control registers -/

/-- The platform has given this number a meaning of its own (R37, R230). -/
def csrIsHooked (p : Params) (n : BitVec 8) : Bool := p.csrHooked.contains n

/-- `csr_read(n)`: plain storage, or a free value where the platform has hooked the number (R37, R230, U11). -/
def csrRead (n : BitVec 8) (s : State) : Word :=
  if csrIsHooked s.params n then Config.csrPlatformRead n s.draws else s.csr[n.toNat]'n.isLt

/-- A read of a hooked number draws a free value; a plain one changes nothing (log entry 5). -/
def csrDraw (n : BitVec 8) (s : State) : State :=
  if csrIsHooked s.params n then { s with draws := s.draws + 1 } else s

/-- `csr_write(n, v)`: plain storage; of a hooked number nothing can be relied on (R37, R230, U11). -/
def csrWrite (n : BitVec 8) (v : Word) (s : State) : State :=
  if csrIsHooked s.params n then s else { s with csr := s.csr.set n.toNat v n.isLt }

/-! ## Linkage -/

/-- `link()`: `SRSUBsi #2, SSP; SRSTso LR, #0(SSP); SRMOVur PC, LR` (R212). PC keeps the call's address (R41). -/
def link (s : State) : Run State :=
  let s1 := s.setSr .ssp (sub48 (s.getSr .ssp) 2)
  andThen (memWriteWide (offsetAddr (s1.getSr .ssp) (0 : BitVec 12)) (s1.getSr .lr) s1) fun s2 =>
    .next (s2.setSr .lr (s2.getSr .pc))

end Sys2Proof.Machine
end

