-- ==== Sys2Proof/Machine/AddressAlu.lean ====
section
/-!
DEFINITION. Opclass 0110, address-register ALU and moves (`spec/44_address_alu.md`). Address arithmetic is modulo 2^48 and
writes no flag (R180).
-/

namespace Sys2Proof.Machine

/-- MOVAur, "if (L) ARt[23:0] = DRs; else ARt[47:24] = DRs" (R181). -/
def execMovaur (art : BitVec 2) (drs : BitVec 4) (half : Half) (s : State) : Run State :=
  complete (s.setAr art (withHalf (s.getAr art) (s.getDr drs) half))

/-- MOVDur, "if (L) DRt = ARs[23:0]; else DRt = ARs[47:24]", `{Z}` of the half moved (R182). -/
def execMovdur (drt : BitVec 4) (ars : BitVec 2) (half : Half) (s : State) : Run State :=
  moveZ drt (halfOfAddr (s.getAr ars) half) s

/-- ADDAur, "unsigned ARt += zext(DRs)" (R183). -/
def execAddaur (art : BitVec 2) (drs : BitVec 4) (s : State) : Run State :=
  complete (s.setAr art (add48 (s.getAr art) (zext48 (s.getDr drs))))

/-- SUBAur, "unsigned ARt -= zext(DRs)" (R184). -/
def execSubaur (art : BitVec 2) (drs : BitVec 4) (s : State) : Run State :=
  complete (s.setAr art (sub48 (s.getAr art) (zext48 (s.getDr drs))))

/-- ADDAsr, "signed ARt += sext(DRs)" (R185). -/
def execAddasr (art : BitVec 2) (drs : BitVec 4) (s : State) : Run State :=
  complete (s.setAr art (add48 (s.getAr art) (sext48 (s.getDr drs))))

/-- SUBAsr, "signed ARt -= sext(DRs)" (R186). -/
def execSubasr (art : BitVec 2) (drs : BitVec 4) (s : State) : Run State :=
  complete (s.setAr art (sub48 (s.getAr art) (sext48 (s.getDr drs))))

/-- ADDAsi, "signed ARt += sext(imm12)" (R187). -/
def execAddasi (art : BitVec 2) (imm : BitVec 12) (s : State) : Run State :=
  complete (s.setAr art (add48 (s.getAr art) (sext48 imm)))

/-- SUBAsi, "signed ARt -= sext(imm12)" (R188). -/
def execSubasi (art : BitVec 2) (imm : BitVec 12) (s : State) : Run State :=
  complete (s.setAr art (sub48 (s.getAr art) (sext48 imm)))

/-- LEAso, "ARt = ARs + sext(imm12)" (R189). -/
def execLeaso (art ars : BitVec 2) (imm : BitVec 12) (s : State) : Run State :=
  complete (s.setAr art (offsetAddr (s.getAr ars) imm))

/-- ADRAso, "ARt = PC + sext(imm14)", PC being the instruction's own address (R190). -/
def execAdraso (art : BitVec 2) (imm : BitVec 14) (s : State) : Run State :=
  complete (s.setAr art (offsetAddr s.pc imm))

/-- CMPAur, "unsigned compare ARs, ARt", `{Z, C}` on all 48 bits (R191, R32). -/
def execCmpaur (art ars : BitVec 2) (s : State) : Run State :=
  let below := decide ((s.getAr art).toNat < (s.getAr ars).toNat)
  complete (s.withFlags (flagsZC (sub48 (s.getAr art) (s.getAr ars)) below s.flags))

/-- TSTAur, "unsigned ARt == 0", `{Z}` on all 48 bits (R192). -/
def execTstaur (art : BitVec 2) (s : State) : Run State :=
  complete (s.withFlags (flagsZ (s.getAr art) s.flags))

end Sys2Proof.Machine
end

