-- ==== Sys2Proof/Machine/AluImm.lean ====
section
/-!
DEFINITION. Opclass 0001, core ALU with immediate and `uimm`, unsigned flags (`spec/41_alu_imm_unsigned.md`). The operand of
the seven `[OPC]ui` forms is the bank-0 value above the instruction's 12 bits (R120).
-/

namespace Sys2Proof.Machine

/-- LUIui, `bank[x] = imm12; loaded[x] = 1`; x = 3 is `ReservedEncoding` (R121). -/
def execLuiui (x : BitVec 2) (imm : BitVec 12) (s : State) : Run State :=
  if h : x.toNat < 3 then
    completeLui { s with bank := s.bank.set x.toNat imm h, loaded := s.loaded.set x.toNat true h }
  else .refused (.reservedEncoding (encode (.luiui x imm)) .noSuchBank)

/-- MOVui, "DRt = {uimm[11-0], imm12}", `{Z}` (R122). -/
def execMovui (drt : BitVec 4) (imm : BitVec 12) (s : State) : Run State :=
  needUimm [0] s (moveZ drt (s.uimm24 imm) s)

/-- ADDui, "unsigned DRt += {uimm[11-0], imm12}", `{Z, C}` (R123). -/
def execAddui (drt : BitVec 4) (imm : BitVec 12) (s : State) : Run State :=
  needUimm [0] s (addZC drt (s.uimm24 imm) s)

/-- SUBui, "unsigned DRt -= {uimm[11-0], imm12}", `{Z, C}` (R124). -/
def execSubui (drt : BitVec 4) (imm : BitVec 12) (s : State) : Run State :=
  needUimm [0] s (subZC drt (s.uimm24 imm) s)

/-- ANDui, "DRt &= {uimm[11-0], imm12}", `{Z}` (R125). -/
def execAndui (drt : BitVec 4) (imm : BitVec 12) (s : State) : Run State :=
  needUimm [0] s (moveZ drt (s.getDr drt &&& s.uimm24 imm) s)

/-- ORui, "DRt |= {uimm[11-0], imm12}", `{Z}` (R126). -/
def execOrui (drt : BitVec 4) (imm : BitVec 12) (s : State) : Run State :=
  needUimm [0] s (moveZ drt (s.getDr drt ||| s.uimm24 imm) s)

/-- XORui, "DRt ^= {uimm[11-0], imm12}", `{Z}` (R127). -/
def execXorui (drt : BitVec 4) (imm : BitVec 12) (s : State) : Run State :=
  needUimm [0] s (moveZ drt (s.getDr drt ^^^ s.uimm24 imm) s)

/-- SHLui, "DRt <<= imm5", `{Z, C}` only if imm5 is non-zero; does not read `uimm` (R128). -/
def execShlui (drt : BitVec 4) (imm : BitVec 5) (s : State) : Run State :=
  shiftZC shl drt imm.toNat s

/-- ROLui, "DRt <<<= imm5", `{Z, C}` only if imm5 is non-zero (R129). -/
def execRolui (drt : BitVec 4) (imm : BitVec 5) (s : State) : Run State :=
  shiftZC rol drt imm.toNat s

/-- SHRui, "unsigned DRt >>= imm5", `{Z, C}` only if imm5 is non-zero (R130). -/
def execShrui (drt : BitVec 4) (imm : BitVec 5) (s : State) : Run State :=
  shiftZC shr drt imm.toNat s

/-- RORui, "DRt >>>= imm5", `{Z, C}` only if imm5 is non-zero (R131). -/
def execRorui (drt : BitVec 4) (imm : BitVec 5) (s : State) : Run State :=
  shiftZC ror drt imm.toNat s

/-- CMPui, "unsigned compare {uimm[11-0], imm12}, DRt", `{Z, C}` of DRt minus the operand (R132). -/
def execCmpui (drt : BitVec 4) (imm : BitVec 12) (s : State) : Run State :=
  needUimm [0] s (compareZC drt (s.uimm24 imm) s)

end Sys2Proof.Machine
end

