-- ==== Sys2Proof/Machine/AluReg.lean ====
section
/-!
DEFINITION. Opclass 0000, core ALU register to register with unsigned flags (`spec/40_alu_reg_unsigned.md`). Both operands are
read before DRt is written, so DRt = DRs needs no special case (R100).
-/

namespace Sys2Proof.Machine

/-- NOP, "no operation" (R101). -/
def execNop (s : State) : Run State :=
  complete s

/-- MOVur, "DRt = DRs", `{Z}` (R102). -/
def execMovur (drt drs : BitVec 4) (s : State) : Run State :=
  moveZ drt (s.getDr drs) s

/-- MCCur, "if (CC) DRt = DRs", `{Z}` only if the move happens (R103). -/
def execMccur (drt drs cc : BitVec 4) (s : State) : Run State :=
  whenCond cc s (moveZ drt (s.getDr drs) s) (complete s)

/-- ADDur, "unsigned DRt += DRs", `{Z, C}` (R104). -/
def execAddur (drt drs : BitVec 4) (s : State) : Run State :=
  addZC drt (s.getDr drs) s

/-- SUBur, "unsigned DRt -= DRs", `{Z, C}` (R105). -/
def execSubur (drt drs : BitVec 4) (s : State) : Run State :=
  subZC drt (s.getDr drs) s

/-- NOTur, "DRt ~= DRt", `{Z}` (R106). -/
def execNotur (drt : BitVec 4) (s : State) : Run State :=
  moveZ drt (~~~(s.getDr drt)) s

/-- ANDur, "DRt &= DRs", `{Z}` (R107). -/
def execAndur (drt drs : BitVec 4) (s : State) : Run State :=
  moveZ drt (s.getDr drt &&& s.getDr drs) s

/-- ORur, "DRt |= DRs", `{Z}` (R108). -/
def execOrur (drt drs : BitVec 4) (s : State) : Run State :=
  moveZ drt (s.getDr drt ||| s.getDr drs) s

/-- XORur, "DRt ^= DRs", `{Z}` (R109). -/
def execXorur (drt drs : BitVec 4) (s : State) : Run State :=
  moveZ drt (s.getDr drt ^^^ s.getDr drs) s

/-- SHLur, "DRt <<= DRs[4:0]", `{Z, C}` only if the count is non-zero (R110). -/
def execShlur (drt drs : BitVec 4) (s : State) : Run State :=
  shiftZC shl drt (countOf (s.getDr drs)) s

/-- ROLur, "DRt <<<= DRs[4:0]", `{Z, C}` only if the count is non-zero (R111). -/
def execRolur (drt drs : BitVec 4) (s : State) : Run State :=
  shiftZC rol drt (countOf (s.getDr drs)) s

/-- SHRur, "unsigned DRt >>= DRs[4:0]", `{Z, C}` only if the count is non-zero (R112). -/
def execShrur (drt drs : BitVec 4) (s : State) : Run State :=
  shiftZC shr drt (countOf (s.getDr drs)) s

/-- RORur, "DRt >>>= DRs[4:0]", `{Z, C}` only if the count is non-zero (R113). -/
def execRorur (drt drs : BitVec 4) (s : State) : Run State :=
  shiftZC ror drt (countOf (s.getDr drs)) s

/-- CMPur, "unsigned compare DRs, DRt", `{Z, C}` of DRt - DRs (R114). -/
def execCmpur (drt drs : BitVec 4) (s : State) : Run State :=
  compareZC drt (s.getDr drs) s

/-- TSTur, "unsigned DRt == 0", `{Z}` (R115). -/
def execTstur (drt : BitVec 4) (s : State) : Run State :=
  complete (s.withFlags (flagsZ (s.getDr drt) s.flags))

end Sys2Proof.Machine
end

