-- ==== Sys2Proof/Machine/AluSigned.lean ====
section
/-!
DEFINITION. Opclasses 0010 and 0011, core ALU with signed flags (`spec/42_alu_signed.md`). A signed immediate is widened by
`sext_24` (R140).
-/

namespace Sys2Proof.Machine

/-- ADDsr, "signed DRt += DRs", `{Z, N, V}` (R141). -/
def execAddsr (drt drs : BitVec 4) (s : State) : Run State :=
  addZNV drt (s.getDr drs) s

/-- SUBsr, "signed DRt -= DRs", `{Z, N, V}` (R142). -/
def execSubsr (drt drs : BitVec 4) (s : State) : Run State :=
  subZNV drt (s.getDr drt) (s.getDr drs) s

/-- NEGsr, "signed DRt = -DRt", `{Z, N, V}` of `sub24(0, DRt)` (R143). -/
def execNegsr (drt : BitVec 4) (s : State) : Run State :=
  subZNV drt 0 (s.getDr drt) s

/-- SHRsr, "signed DRt >>= DRs[4:0]", `{Z, N, C}` only if the count is non-zero (R144). -/
def execShrsr (drt drs : BitVec 4) (s : State) : Run State :=
  shiftZNC drt (countOf (s.getDr drs)) s

/-- CMPsr, "signed compare DRs, DRt", `{Z, N, V}` of DRt - DRs (R145). -/
def execCmpsr (drt drs : BitVec 4) (s : State) : Run State :=
  compareZNV drt (s.getDr drs) s

/-- TSTsr, "signed DRt test", `{Z, N}` (R146). -/
def execTstsr (drt : BitVec 4) (s : State) : Run State :=
  complete (s.withFlags (flagsZN (s.getDr drt) s.flags))

/-- MOVsi, "signed DRt = sext(imm12)", `{Z, N}` (R147). -/
def execMovsi (drt : BitVec 4) (imm : BitVec 12) (s : State) : Run State :=
  complete (s.resultZN drt (sext24 imm))

/-- MCCsi, "if (CC) DRt = sext(imm8)", `{Z}` only if the move happens and never `N` (R148). -/
def execMccsi (drt cc : BitVec 4) (imm : BitVec 8) (s : State) : Run State :=
  whenCond cc s (moveZ drt (sext24 imm) s) (complete s)

/-- ADDsi, "signed DRt += sext(imm12)", `{Z, N, V}` (R149). -/
def execAddsi (drt : BitVec 4) (imm : BitVec 12) (s : State) : Run State :=
  addZNV drt (sext24 imm) s

/-- SUBsi, "signed DRt -= sext(imm12)", `{Z, N, V}` (R150). -/
def execSubsi (drt : BitVec 4) (imm : BitVec 12) (s : State) : Run State :=
  subZNV drt (s.getDr drt) (sext24 imm) s

/-- SHRsi, "signed DRt >>= imm5", `{Z, N, C}` only if imm5 is non-zero (R151). -/
def execShrsi (drt : BitVec 4) (imm : BitVec 5) (s : State) : Run State :=
  shiftZNC drt imm.toNat s

/-- CMPsi, "signed compare sext(imm12), DRt", `{Z, N, V}` of DRt - sext(imm12) (R152). -/
def execCmpsi (drt : BitVec 4) (imm : BitVec 12) (s : State) : Run State :=
  compareZNV drt (sext24 imm) s

end Sys2Proof.Machine
end

