-- ==== Sys2Proof/Machine/ControlFlow.lean ====
section
/-!
DEFINITION. Opclass 0111, control flow and linkage (`spec/45_control_flow.md`). Displacements count cells from the transfer
itself (R200); the calls and RET are their micro-operation lists, in order, as one step (R41, R212).
-/

namespace Sys2Proof.Machine

/-- BTP, "branch target pad": a no-operation (R201). -/
def execBtp (s : State) : Run State :=
  complete s

/-- JCCur, "if (CC) goto ARt" (R202). -/
def execJccur (art : BitVec 2) (cc : BitVec 4) (s : State) : Run State :=
  whenCond cc s (completeAt (s.getAr art) s) (complete s)

/-- JCCui, "if (CC) goto {uimm[35-0], imm12}"; the banks are checked first, taken or not (R203). -/
def execJccui (cc : BitVec 4) (imm : BitVec 12) (s : State) : Run State :=
  needUimm [0, 1, 2] s (whenCond cc s (completeAt (s.uimm48 imm) s) (complete s))

/-- BCCsr, "if (CC) goto PC+signed(DRt)" (R204). -/
def execBccsr (drt cc : BitVec 4) (s : State) : Run State :=
  whenCond cc s (completeAt (offsetAddr s.pc (s.getDr drt)) s) (complete s)

/-- BCCso, "if (CC) goto PC+sext(imm12)" (R205). -/
def execBccso (cc : BitVec 4) (imm : BitVec 12) (s : State) : Run State :=
  whenCond cc s (completeAt (offsetAddr s.pc imm) s) (complete s)

/-- BALso, "goto PC+sext(imm16)" (R206). -/
def execBalso (imm : BitVec 16) (s : State) : Run State :=
  completeAt (offsetAddr s.pc imm) s

/-- JSRur, "call ARt": `link(); pc <- AR[t]` (R207). -/
def execJsrur (art : BitVec 2) (s : State) : Run State :=
  andThen (link s) fun s' => completeAt (s'.getAr art) s'

/-- JSRui, "call {uimm[35-0], imm12}"; the banks are checked first (R208). -/
def execJsrui (imm : BitVec 12) (s : State) : Run State :=
  needUimm [0, 1, 2] s (andThen (link s) fun s' => completeAt (s'.uimm48 imm) s')

/-- BSRsr, "call PC + sext(DRt)" (R209). -/
def execBsrsr (drt : BitVec 4) (s : State) : Run State :=
  andThen (link s) fun s' => completeAt (offsetAddr s'.pc (s'.getDr drt)) s'

/-- BSRso, "call PC + sext(imm16)" (R210). -/
def execBsrso (imm : BitVec 16) (s : State) : Run State :=
  andThen (link s) fun s' => completeAt (offsetAddr s'.pc imm) s'

/-- RET, "return", executed literally: `SRADDsi #2, SSP; SRLDso #-2(SSP), LR; SRJCCso AL, LR+#1` (R211, R213, D28). -/
def execRet (s : State) : Run State :=
  let s1 := s.setSr .ssp (add48 (s.getSr .ssp) 2)
  andThen (memReadWide (offsetAddr (s1.getSr .ssp) (-2 : BitVec 12)) s1) fun v =>
    let s2 := s1.setSr .lr v
    completeAt (offsetAddr (s2.getSr .lr) (1 : BitVec 10)) s2

end Sys2Proof.Machine
end

