-- ==== Sys2Proof/Machine/Csr.lean ====
section
/-!
DEFINITION. Opclass 1001, CSR access (`spec/47_csr.md`) through the hooks of R230.
-/

namespace Sys2Proof.Machine

/-- CSRRD, "DRt = CSR[csr8] (24-bit)", `{Z}` (R231). -/
def execCsrrd (drt : BitVec 4) (csr : BitVec 8) (s : State) : Run State :=
  moveZ drt (csrRead csr s) (csrDraw csr s)

/-- CSRWR, "CSR[csr8] = DRs (24-bit)" (R232). -/
def execCsrwr (drs : BitVec 4) (csr : BitVec 8) (s : State) : Run State :=
  complete (csrWrite csr (s.getDr drs) s)

end Sys2Proof.Machine
end

