-- ==== Sys2Proof/Machine/LoadStore.lean ====
section
/-!
DEFINITION. Opclasses 0100 and 0101, loads and stores (`spec/43_load_store.md`). No load or store writes a flag (R160).
-/

namespace Sys2Proof.Machine

/-- LDur, "DRt = (ARs)" (R161). -/
def execLdur (drt : BitVec 4) (ars : BitVec 2) (s : State) : Run State :=
  andThen (memRead (s.getAr ars) s) fun v => complete (s.setDr drt v)

/-- STur, "(ARt) = DRs" (R162). -/
def execStur (art : BitVec 2) (drs : BitVec 4) (s : State) : Run State :=
  andThen (memWrite (s.getAr art) (s.getDr drs) s) complete

/-- STui, "(ARt) = {uimm[11-0], imm12}"; the bank is checked before the store (R163). -/
def execStui (art : BitVec 2) (imm : BitVec 12) (s : State) : Run State :=
  needUimm [0] s (andThen (memWrite (s.getAr art) (s.uimm24 imm) s) complete)

/-- STsi, "(ARt) = sext(imm14)" (R164). -/
def execStsi (art : BitVec 2) (imm : BitVec 14) (s : State) : Run State :=
  andThen (memWrite (s.getAr art) (sext24 imm) s) complete

/-- LDso, "DRt = (ARs + sext(imm10))" (R165). -/
def execLdso (drt : BitVec 4) (ars : BitVec 2) (imm : BitVec 10) (s : State) : Run State :=
  andThen (memRead (offsetAddr (s.getAr ars) imm) s) fun v => complete (s.setDr drt v)

/-- STso, "(ARt + sext(imm10)) = DRs" (R166). -/
def execStso (art : BitVec 2) (drs : BitVec 4) (imm : BitVec 10) (s : State) : Run State :=
  andThen (memWrite (offsetAddr (s.getAr art) imm) (s.getDr drs) s) complete

/-- LDAso, "ARt = (ARs + sext(imm12))", two cells; the address is computed before ARt is written (R167). -/
def execLdaso (art ars : BitVec 2) (imm : BitVec 12) (s : State) : Run State :=
  andThen (memReadWide (offsetAddr (s.getAr ars) imm) s) fun v => complete (s.setAr art v)

/-- STAso, "(ARt + sext(imm12)) = ARs", two cells (R168). -/
def execStaso (art ars : BitVec 2) (imm : BitVec 12) (s : State) : Run State :=
  andThen (memWriteWide (offsetAddr (s.getAr art) imm) (s.getAr ars) s) complete

end Sys2Proof.Machine
end

