-- ==== Sys2Proof/Machine/Privileged.lean ====
section
/-!
DEFINITION. Opclass 1010, privileged / kernel-only (`spec/48_privileged.md`). There is one mode, in which all three execute
(R240, R280, D21).
-/

namespace Sys2Proof.Machine

/-- SRHLT, "halt": `halted <- 1`, PC is not advanced and all else is kept (R241, D22). -/
def execSrhlt (s : State) : Run State :=
  .next { s with halted := true }

/-- SETSSP, "SSP = ARs": `SRMOVAur ARs, SSP` (R242). -/
def execSetssp (ars : BitVec 2) (s : State) : Run State :=
  completeSr .ssp (s.getAr ars) s

/-- SWI, "software interrupt to absolute handler": `LR <- pc + 1`, then an unconditional jump to the address in the banks
and imm12. It changes no mode, saves no flag and touches no memory (R243, R274, D29). -/
def execSwi (imm : BitVec 12) (s : State) : Run State :=
  needUimm [0, 1, 2] s (completeAt (s.uimm48 imm) (s.setSr .lr (add48 s.pc 1)))

end Sys2Proof.Machine
end

