-- ==== Sys2Proof/Machine/Stack.lean ====
section
/-!
DEFINITION. Opclass 1000, stack helpers (`spec/46_stack.md`): two micro-operations in order, the second on the state the first
left, as one step (R220, R41).
-/

namespace Sys2Proof.Machine

/-- PUSHur, "--1(ARt) = DRs": `SUBAsi #1, ARt; STur DRs, (ARt)` (R221). -/
def execPushur (art : BitVec 2) (drs : BitVec 4) (s : State) : Run State :=
  let s1 := s.setAr art (sub48 (s.getAr art) 1)
  andThen (memWrite (s1.getAr art) (s1.getDr drs) s1) complete

/-- PUSHAur, "--2(ARt) = ARs": `SUBAsi #2, ARt; STAso ARs, #0(ARt)` (R222). -/
def execPushaur (art ars : BitVec 2) (s : State) : Run State :=
  let s1 := s.setAr art (sub48 (s.getAr art) 2)
  andThen (memWriteWide (offsetAddr (s1.getAr art) (0 : BitVec 12)) (s1.getAr ars) s1) complete

/-- POPur, "DRt = (ARs)1++": `ADDAsi #1, ARs; LDso #-1(ARs), DRt` (R223). -/
def execPopur (drt : BitVec 4) (ars : BitVec 2) (s : State) : Run State :=
  let s1 := s.setAr ars (add48 (s.getAr ars) 1)
  andThen (memRead (offsetAddr (s1.getAr ars) (-1 : BitVec 10)) s1) fun v => complete (s1.setDr drt v)

/-- POPAur, "ARt = (ARs)2++": `ADDAsi #2, ARs; LDAso #-2(ARs), ARt`; the load is the later write (R224). -/
def execPopaur (art ars : BitVec 2) (s : State) : Run State :=
  let s1 := s.setAr ars (add48 (s.getAr ars) 2)
  andThen (memReadWide (offsetAddr (s1.getAr ars) (-2 : BitVec 12)) s1) fun v => complete (s1.setAr art v)

end Sys2Proof.Machine
end

