-- ==== Sys2Proof/Machine/Uops.lean ====
section
/-!
DEFINITION. Opclass 1111, special-register micro-operations (`spec/49_uops.md`). A code that names no special register is
`ReservedEncoding` (R26, R250). Whether fetch meets one is the decoder's question (R79).
-/

namespace Sys2Proof.Machine

/-- SRMOVur, "SRt = SRs" (R251). -/
def execSrmovur (srt srs : BitVec 2) (s : State) : Run State :=
  withSr (.srmovur srt srs) srt s fun t =>
    withSr (.srmovur srt srs) srs s fun r => completeSr t (s.getSr r) s

/-- SRMOVAur, "SRt = ARs" (R252). -/
def execSrmovaur (srt ars : BitVec 2) (s : State) : Run State :=
  withSr (.srmovaur srt ars) srt s fun t => completeSr t (s.getAr ars) s

/-- SRJCCso, "if (CC) goto SRt + sext(imm10)" (R253). -/
def execSrjccso (srt : BitVec 2) (cc : BitVec 4) (imm : BitVec 10) (s : State) : Run State :=
  withSr (.srjccso srt cc imm) srt s fun t =>
    whenCond cc s (completeAt (offsetAddr (s.getSr t) imm) s) (complete s)

/-- SRADDsi, "signed SRt += sext(imm14)" (R254). -/
def execSraddsi (srt : BitVec 2) (imm : BitVec 14) (s : State) : Run State :=
  withSr (.sraddsi srt imm) srt s fun t => completeSr t (add48 (s.getSr t) (sext48 imm)) s

/-- SRSUBsi, "signed SRt -= sext(imm14)" (R255). -/
def execSrsubsi (srt : BitVec 2) (imm : BitVec 14) (s : State) : Run State :=
  withSr (.srsubsi srt imm) srt s fun t => completeSr t (sub48 (s.getSr t) (sext48 imm)) s

/-- SRSTso, "(SRt + sext(imm12)) = SRs", two cells (R256). -/
def execSrstso (srt srs : BitVec 2) (imm : BitVec 12) (s : State) : Run State :=
  withSr (.srstso srt srs imm) srt s fun t =>
    withSr (.srstso srt srs imm) srs s fun r =>
      andThen (memWriteWide (offsetAddr (s.getSr t) imm) (s.getSr r) s) complete

/-- SRLDso, "SRt = (SRs + sext(imm12))", two cells (R257). -/
def execSrldso (srt srs : BitVec 2) (imm : BitVec 12) (s : State) : Run State :=
  withSr (.srldso srt srs imm) srt s fun t =>
    withSr (.srldso srt srs imm) srs s fun r =>
      andThen (memReadWide (offsetAddr (s.getSr r) imm) s) fun v => completeSr t v s

end Sys2Proof.Machine
end

