-- ==== Sys2Proof/Machine/Dispatch.lean ====
section
/-!
DEFINITION. The dispatch: one arm per constructor of `Instr`, each one direct call of the instruction's meaning.
-/

namespace Sys2Proof.Machine

def exec (i : Instr) (s : State) : Host.Outcome State Fault Refusal :=
  match i with
  | .nop => Sys2Proof.Machine.execNop s
  | .movur drt drs => Sys2Proof.Machine.execMovur drt drs s
  | .mccur drt drs cc => Sys2Proof.Machine.execMccur drt drs cc s
  | .addur drt drs => Sys2Proof.Machine.execAddur drt drs s
  | .subur drt drs => Sys2Proof.Machine.execSubur drt drs s
  | .notur drt => Sys2Proof.Machine.execNotur drt s
  | .andur drt drs => Sys2Proof.Machine.execAndur drt drs s
  | .orur drt drs => Sys2Proof.Machine.execOrur drt drs s
  | .xorur drt drs => Sys2Proof.Machine.execXorur drt drs s
  | .shlur drt drs => Sys2Proof.Machine.execShlur drt drs s
  | .rolur drt drs => Sys2Proof.Machine.execRolur drt drs s
  | .shrur drt drs => Sys2Proof.Machine.execShrur drt drs s
  | .rorur drt drs => Sys2Proof.Machine.execRorur drt drs s
  | .cmpur drt drs => Sys2Proof.Machine.execCmpur drt drs s
  | .tstur drt => Sys2Proof.Machine.execTstur drt s
  | .luiui x imm => Sys2Proof.Machine.execLuiui x imm s
  | .movui drt imm => Sys2Proof.Machine.execMovui drt imm s
  | .addui drt imm => Sys2Proof.Machine.execAddui drt imm s
  | .subui drt imm => Sys2Proof.Machine.execSubui drt imm s
  | .andui drt imm => Sys2Proof.Machine.execAndui drt imm s
  | .orui drt imm => Sys2Proof.Machine.execOrui drt imm s
  | .xorui drt imm => Sys2Proof.Machine.execXorui drt imm s
  | .shlui drt imm => Sys2Proof.Machine.execShlui drt imm s
  | .rolui drt imm => Sys2Proof.Machine.execRolui drt imm s
  | .shrui drt imm => Sys2Proof.Machine.execShrui drt imm s
  | .rorui drt imm => Sys2Proof.Machine.execRorui drt imm s
  | .cmpui drt imm => Sys2Proof.Machine.execCmpui drt imm s
  | .addsr drt drs => Sys2Proof.Machine.execAddsr drt drs s
  | .subsr drt drs => Sys2Proof.Machine.execSubsr drt drs s
  | .negsr drt => Sys2Proof.Machine.execNegsr drt s
  | .shrsr drt drs => Sys2Proof.Machine.execShrsr drt drs s
  | .cmpsr drt drs => Sys2Proof.Machine.execCmpsr drt drs s
  | .tstsr drt => Sys2Proof.Machine.execTstsr drt s
  | .movsi drt imm => Sys2Proof.Machine.execMovsi drt imm s
  | .mccsi drt cc imm => Sys2Proof.Machine.execMccsi drt cc imm s
  | .addsi drt imm => Sys2Proof.Machine.execAddsi drt imm s
  | .subsi drt imm => Sys2Proof.Machine.execSubsi drt imm s
  | .shrsi drt imm => Sys2Proof.Machine.execShrsi drt imm s
  | .cmpsi drt imm => Sys2Proof.Machine.execCmpsi drt imm s
  | .ldur drt ars => Sys2Proof.Machine.execLdur drt ars s
  | .stur art drs => Sys2Proof.Machine.execStur art drs s
  | .stui art imm => Sys2Proof.Machine.execStui art imm s
  | .stsi art imm => Sys2Proof.Machine.execStsi art imm s
  | .ldso drt ars imm => Sys2Proof.Machine.execLdso drt ars imm s
  | .stso art drs imm => Sys2Proof.Machine.execStso art drs imm s
  | .ldaso art ars imm => Sys2Proof.Machine.execLdaso art ars imm s
  | .staso art ars imm => Sys2Proof.Machine.execStaso art ars imm s
  | .movaur art drs half => Sys2Proof.Machine.execMovaur art drs half s
  | .movdur drt ars half => Sys2Proof.Machine.execMovdur drt ars half s
  | .addaur art drs => Sys2Proof.Machine.execAddaur art drs s
  | .subaur art drs => Sys2Proof.Machine.execSubaur art drs s
  | .addasr art drs => Sys2Proof.Machine.execAddasr art drs s
  | .subasr art drs => Sys2Proof.Machine.execSubasr art drs s
  | .addasi art imm => Sys2Proof.Machine.execAddasi art imm s
  | .subasi art imm => Sys2Proof.Machine.execSubasi art imm s
  | .leaso art ars imm => Sys2Proof.Machine.execLeaso art ars imm s
  | .adraso art imm => Sys2Proof.Machine.execAdraso art imm s
  | .cmpaur art ars => Sys2Proof.Machine.execCmpaur art ars s
  | .tstaur art => Sys2Proof.Machine.execTstaur art s
  | .btp => Sys2Proof.Machine.execBtp s
  | .jccur art cc => Sys2Proof.Machine.execJccur art cc s
  | .jccui cc imm => Sys2Proof.Machine.execJccui cc imm s
  | .bccsr drt cc => Sys2Proof.Machine.execBccsr drt cc s
  | .bccso cc imm => Sys2Proof.Machine.execBccso cc imm s
  | .balso imm => Sys2Proof.Machine.execBalso imm s
  | .jsrur art => Sys2Proof.Machine.execJsrur art s
  | .jsrui imm => Sys2Proof.Machine.execJsrui imm s
  | .bsrsr drt => Sys2Proof.Machine.execBsrsr drt s
  | .bsrso imm => Sys2Proof.Machine.execBsrso imm s
  | .ret => Sys2Proof.Machine.execRet s
  | .pushur art drs => Sys2Proof.Machine.execPushur art drs s
  | .pushaur art ars => Sys2Proof.Machine.execPushaur art ars s
  | .popur drt ars => Sys2Proof.Machine.execPopur drt ars s
  | .popaur art ars => Sys2Proof.Machine.execPopaur art ars s
  | .csrrd drt csr => Sys2Proof.Machine.execCsrrd drt csr s
  | .csrwr drs csr => Sys2Proof.Machine.execCsrwr drs csr s
  | .srhlt => Sys2Proof.Machine.execSrhlt s
  | .setssp ars => Sys2Proof.Machine.execSetssp ars s
  | .swi imm => Sys2Proof.Machine.execSwi imm s
  | .srmovur srt srs => Sys2Proof.Machine.execSrmovur srt srs s
  | .srmovaur srt ars => Sys2Proof.Machine.execSrmovaur srt ars s
  | .srjccso srt cc imm => Sys2Proof.Machine.execSrjccso srt cc imm s
  | .sraddsi srt imm => Sys2Proof.Machine.execSraddsi srt imm s
  | .srsubsi srt imm => Sys2Proof.Machine.execSrsubsi srt imm s
  | .srstso srt srs imm => Sys2Proof.Machine.execSrstso srt srs imm s
  | .srldso srt srs imm => Sys2Proof.Machine.execSrldso srt srs imm s

end Sys2Proof.Machine
end

