-- ==== Sys2Proof/Machine/Step.lean ====
section
/-!
DEFINITION. One step (`spec/10_state.md` R40): fetch, decode, execute, in the order of outcomes of
`spec/60_exceptions.md` R272. The meanings end the step themselves (steps 4 and 5 of R40).
-/

namespace Sys2Proof.Machine

/-- One instruction step (R40). A halted state has no next step: outcome `Halted` (R241, U16). A
word that selects no instruction is `ReservedEncoding` (R76 to R79), treated by its cause (R12, log entry 30). -/
def step (s : State) : Host.Outcome State Fault Refusal :=
  if s.halted then .fault .halted
  else
    andThen (fetch s) fun w =>
      match decode s.params w with
      | .ok i => exec i s
      | .error cause => raiseReserved w cause

/-- `s` with a word of the opcode table at PC and all that the fetch of it needs: the processor runs, the platform
admits the fetch, the cell counts as not stored to, and opclass 1111 is fetchable if the word is of it (log
entries 9 and 14). -/
def State.withFetchWord (s : State) (nbits w : Nat) : State :=
  let word := tableWord nbits w
  let p := tableParams s.params word
  let covers (h : Hole) : Bool :=
    decide (h.kind = .fetch) && decide (h.lo ≤ s.pc.toNat) && decide (s.pc.toNat ≤ h.hi)
  { s with
    params := { p with holes := p.holes.filter fun h => !covers h }
    halted := false
    mem := writeCell s.mem s.pc.toNat word
    stored := s.stored.filter fun a => a != s.pc.toNat }

end Sys2Proof.Machine
end

