-- ==== Sys2Proof/Laws/Decode.lean ====
section
/-!
SUPPORT. Lemmas about the decoder's and encoder's shared parts: the RESERVED check, the special-register check, and
the fields of a word put together from parts.
-/

namespace Sys2Proof

theorem checked_eq_ok {p : Params} {w : Word} {ranges : List (Nat × Nat)} {i j : Instr} :
    checked p w ranges i = .ok j ↔ (p.reservedBitsStrict = true → anyBitSet w ranges = false) ∧ i = j := by
  unfold checked
  cases p.reservedBitsStrict <;> cases anyBitSet w ranges <;> simp

@[simp] theorem anyBitSet_nil (w : Word) : anyBitSet w [] = false := rfl

theorem named_eq_ok {p : Params} {codes : List (BitVec 2)} {next : Except ReservedCause Instr} {j : Instr} :
    named p codes next = .ok j ↔ (∀ c ∈ codes, p.namesSpecial c = true) ∧ next = .ok j := by
  rw [← List.all_eq_true]
  unfold named
  cases codes.all p.namesSpecial <;> simp

@[simp] theorem halfOf_halfBit (h : Half) : halfOf (halfBit h) = h := by cases h <;> rfl

/-- The low part of two joined parts. -/
theorem extract_append_low {v w : Nat} (x : BitVec v) (y : BitVec w) : (x ++ y).extractLsb' 0 w = y :=
  BitVec.extractLsb'_append_eq_right

/-- Joined parts, widened to a word: the upper part shifted up, or the lower part. -/
theorem append_setWidth_word {v w : Nat} (x : BitVec v) (y : BitVec w) :
    (x ++ y).setWidth 24 = (x.setWidth 24 <<< w) ||| y.setWidth 24 := by
  ext i hi
  simp only [BitVec.getElem_setWidth, BitVec.getLsbD_append, BitVec.getElem_or, BitVec.getElem_shiftLeft]
  by_cases hw : i < w
  · simp [hw]
  · simp [hw, BitVec.getLsbD_of_ge y i (by omega)]

end Sys2Proof
end

