-- ==== Sys2Proof/Laws/PerInstr.lean ====
section
/-!
SUPPORT. Per-instruction laws. The family `EncodingFormula`: the word the encoder gives is the word the
instruction's own rule writes out, its match value with each operand shifted to its place.
-/

namespace Sys2Proof.Laws

/-- An operand field placed with its least significant bit at bit `lo`: the rules' `t << lo`. -/
def placed {n : Nat} (v : BitVec n) (lo : Nat) : Word := v.setWidth 24 <<< lo

/-- The word each instruction's rule writes out after "word" (R101 to R257). -/
def formula : Instr → Word
  | .nop => 0x000000
  | .movur drt drs => 0x010000 ||| placed drt 12 ||| placed drs 8
  | .mccur drt drs cc => 0x020000 ||| placed drt 12 ||| placed drs 8 ||| placed cc 4
  | .addur drt drs => 0x030000 ||| placed drt 12 ||| placed drs 8
  | .subur drt drs => 0x040000 ||| placed drt 12 ||| placed drs 8
  | .notur drt => 0x050000 ||| placed drt 12
  | .andur drt drs => 0x060000 ||| placed drt 12 ||| placed drs 8
  | .orur drt drs => 0x070000 ||| placed drt 12 ||| placed drs 8
  | .xorur drt drs => 0x080000 ||| placed drt 12 ||| placed drs 8
  | .shlur drt drs => 0x090000 ||| placed drt 12 ||| placed drs 8
  | .rolur drt drs => 0x0A0000 ||| placed drt 12 ||| placed drs 8
  | .shrur drt drs => 0x0B0000 ||| placed drt 12 ||| placed drs 8
  | .rorur drt drs => 0x0C0000 ||| placed drt 12 ||| placed drs 8
  | .cmpur drt drs => 0x0D0000 ||| placed drt 12 ||| placed drs 8
  | .tstur drt => 0x0E0000 ||| placed drt 12
  | .luiui x imm => 0x100000 ||| placed x 14 ||| placed imm 0
  | .movui drt imm => 0x110000 ||| placed drt 12 ||| placed imm 0
  | .addui drt imm => 0x130000 ||| placed drt 12 ||| placed imm 0
  | .subui drt imm => 0x140000 ||| placed drt 12 ||| placed imm 0
  | .andui drt imm => 0x160000 ||| placed drt 12 ||| placed imm 0
  | .orui drt imm => 0x170000 ||| placed drt 12 ||| placed imm 0
  | .xorui drt imm => 0x180000 ||| placed drt 12 ||| placed imm 0
  | .shlui drt imm => 0x190000 ||| placed drt 12 ||| placed imm 0
  | .rolui drt imm => 0x1A0000 ||| placed drt 12 ||| placed imm 0
  | .shrui drt imm => 0x1B0000 ||| placed drt 12 ||| placed imm 0
  | .rorui drt imm => 0x1C0000 ||| placed drt 12 ||| placed imm 0
  | .cmpui drt imm => 0x1D0000 ||| placed drt 12 ||| placed imm 0
  | .addsr drt drs => 0x230000 ||| placed drt 12 ||| placed drs 8
  | .subsr drt drs => 0x240000 ||| placed drt 12 ||| placed drs 8
  | .negsr drt => 0x250000 ||| placed drt 12
  | .shrsr drt drs => 0x2B0000 ||| placed drt 12 ||| placed drs 8
  | .cmpsr drt drs => 0x2D0000 ||| placed drt 12 ||| placed drs 8
  | .tstsr drt => 0x2E0000 ||| placed drt 12
  | .movsi drt imm => 0x300000 ||| placed drt 12 ||| placed imm 0
  | .mccsi drt cc imm => 0x310000 ||| placed drt 12 ||| placed cc 8 ||| placed imm 0
  | .addsi drt imm => 0x330000 ||| placed drt 12 ||| placed imm 0
  | .subsi drt imm => 0x340000 ||| placed drt 12 ||| placed imm 0
  | .shrsi drt imm => 0x3B0000 ||| placed drt 12 ||| placed imm 0
  | .cmpsi drt imm => 0x3D0000 ||| placed drt 12 ||| placed imm 0
  | .ldur drt ars => 0x400000 ||| placed drt 12 ||| placed ars 10
  | .stur art drs => 0x410000 ||| placed art 14 ||| placed drs 10
  | .stui art imm => 0x420000 ||| placed art 14 ||| placed imm 0
  | .stsi art imm => 0x430000 ||| placed art 14 ||| placed imm 0
  | .ldso drt ars imm => 0x500000 ||| placed drt 12 ||| placed ars 10 ||| placed imm 0
  | .stso art drs imm => 0x510000 ||| placed art 14 ||| placed drs 10 ||| placed imm 0
  | .ldaso art ars imm => 0x520000 ||| placed art 14 ||| placed ars 12 ||| placed imm 0
  | .staso art ars imm => 0x530000 ||| placed art 14 ||| placed ars 12 ||| placed imm 0
  | .movaur art drs half => 0x610000 ||| placed art 14 ||| placed drs 10 ||| placed (halfBit half) 9
  | .movdur drt ars half => 0x620000 ||| placed drt 12 ||| placed ars 10 ||| placed (halfBit half) 9
  | .addaur art drs => 0x630000 ||| placed art 14 ||| placed drs 10
  | .subaur art drs => 0x640000 ||| placed art 14 ||| placed drs 10
  | .addasr art drs => 0x650000 ||| placed art 14 ||| placed drs 10
  | .subasr art drs => 0x660000 ||| placed art 14 ||| placed drs 10
  | .addasi art imm => 0x670000 ||| placed art 14 ||| placed imm 0
  | .subasi art imm => 0x680000 ||| placed art 14 ||| placed imm 0
  | .leaso art ars imm => 0x690000 ||| placed art 14 ||| placed ars 12 ||| placed imm 0
  | .adraso art imm => 0x6A0000 ||| placed art 14 ||| placed imm 0
  | .cmpaur art ars => 0x6D0000 ||| placed art 14 ||| placed ars 12
  | .tstaur art => 0x6E0000 ||| placed art 14
  | .btp => 0x700000
  | .jccur art cc => 0x710000 ||| placed art 14 ||| placed cc 10
  | .jccui cc imm => 0x720000 ||| placed cc 12 ||| placed imm 0
  | .bccsr drt cc => 0x730000 ||| placed drt 12 ||| placed cc 8
  | .bccso cc imm => 0x740000 ||| placed cc 12 ||| placed imm 0
  | .balso imm => 0x750000 ||| placed imm 0
  | .jsrur art => 0x760000 ||| placed art 14
  | .jsrui imm => 0x770000 ||| placed imm 0
  | .bsrsr drt => 0x780000 ||| placed drt 12
  | .bsrso imm => 0x790000 ||| placed imm 0
  | .ret => 0x7A0000
  | .pushur art drs => 0x800000 ||| placed art 14 ||| placed drs 10
  | .pushaur art ars => 0x810000 ||| placed art 14 ||| placed ars 12
  | .popur drt ars => 0x820000 ||| placed drt 12 ||| placed ars 10
  | .popaur art ars => 0x830000 ||| placed art 14 ||| placed ars 12
  | .csrrd drt csr => 0x900000 ||| placed drt 12 ||| placed csr 0
  | .csrwr drs csr => 0x910000 ||| placed drs 10 ||| placed csr 0
  | .srhlt => 0xA00000
  | .setssp ars => 0xA10000 ||| placed ars 14
  | .swi imm => 0xA20000 ||| placed imm 0
  | .srmovur srt srs => 0xF00000 ||| placed srt 14 ||| placed srs 12
  | .srmovaur srt ars => 0xF10000 ||| placed srt 14 ||| placed ars 12
  | .srjccso srt cc imm => 0xF20000 ||| placed srt 14 ||| placed cc 10 ||| placed imm 0
  | .sraddsi srt imm => 0xF30000 ||| placed srt 14 ||| placed imm 0
  | .srsubsi srt imm => 0xF40000 ||| placed srt 14 ||| placed imm 0
  | .srstso srt srs imm => 0xF50000 ||| placed srt 14 ||| placed srs 12 ||| placed imm 0
  | .srldso srt srs imm => 0xF60000 ||| placed srt 14 ||| placed srs 12 ||| placed imm 0

/-- The encoder's word is the rule's word, for every instruction: the parts it joins are the operands shifted. -/
theorem encode_eq_formula (i : Instr) : encode i = formula i := by
  refine (BitVec.setWidth_eq _).symm.trans ?_
  cases i <;> simp only [encode, formula, placed] <;> (repeat rw [append_setWidth_word]) <;>
    simp [BitVec.shiftLeft_or_distrib, ← BitVec.shiftLeft_add]

/-- The encoder's word is the rule's word. -/
def EncodingFormula.Statement (i : Instr) : Prop := encode i = formula i

theorem EncodingFormula.nop : Statement .nop := encode_eq_formula _
theorem EncodingFormula.movur (drt : BitVec 4) (drs : BitVec 4) : Statement (.movur drt drs) := encode_eq_formula _
theorem EncodingFormula.mccur (drt : BitVec 4) (drs : BitVec 4) (cc : BitVec 4) : Statement (.mccur drt drs cc) := encode_eq_formula _
theorem EncodingFormula.addur (drt : BitVec 4) (drs : BitVec 4) : Statement (.addur drt drs) := encode_eq_formula _
theorem EncodingFormula.subur (drt : BitVec 4) (drs : BitVec 4) : Statement (.subur drt drs) := encode_eq_formula _
theorem EncodingFormula.notur (drt : BitVec 4) : Statement (.notur drt) := encode_eq_formula _
theorem EncodingFormula.andur (drt : BitVec 4) (drs : BitVec 4) : Statement (.andur drt drs) := encode_eq_formula _
theorem EncodingFormula.orur (drt : BitVec 4) (drs : BitVec 4) : Statement (.orur drt drs) := encode_eq_formula _
theorem EncodingFormula.xorur (drt : BitVec 4) (drs : BitVec 4) : Statement (.xorur drt drs) := encode_eq_formula _
theorem EncodingFormula.shlur (drt : BitVec 4) (drs : BitVec 4) : Statement (.shlur drt drs) := encode_eq_formula _
theorem EncodingFormula.rolur (drt : BitVec 4) (drs : BitVec 4) : Statement (.rolur drt drs) := encode_eq_formula _
theorem EncodingFormula.shrur (drt : BitVec 4) (drs : BitVec 4) : Statement (.shrur drt drs) := encode_eq_formula _
theorem EncodingFormula.rorur (drt : BitVec 4) (drs : BitVec 4) : Statement (.rorur drt drs) := encode_eq_formula _
theorem EncodingFormula.cmpur (drt : BitVec 4) (drs : BitVec 4) : Statement (.cmpur drt drs) := encode_eq_formula _
theorem EncodingFormula.tstur (drt : BitVec 4) : Statement (.tstur drt) := encode_eq_formula _
theorem EncodingFormula.luiui (x : BitVec 2) (imm : BitVec 12) : Statement (.luiui x imm) := encode_eq_formula _
theorem EncodingFormula.movui (drt : BitVec 4) (imm : BitVec 12) : Statement (.movui drt imm) := encode_eq_formula _
theorem EncodingFormula.addui (drt : BitVec 4) (imm : BitVec 12) : Statement (.addui drt imm) := encode_eq_formula _
theorem EncodingFormula.subui (drt : BitVec 4) (imm : BitVec 12) : Statement (.subui drt imm) := encode_eq_formula _
theorem EncodingFormula.andui (drt : BitVec 4) (imm : BitVec 12) : Statement (.andui drt imm) := encode_eq_formula _
theorem EncodingFormula.orui (drt : BitVec 4) (imm : BitVec 12) : Statement (.orui drt imm) := encode_eq_formula _
theorem EncodingFormula.xorui (drt : BitVec 4) (imm : BitVec 12) : Statement (.xorui drt imm) := encode_eq_formula _
theorem EncodingFormula.shlui (drt : BitVec 4) (imm : BitVec 5) : Statement (.shlui drt imm) := encode_eq_formula _
theorem EncodingFormula.rolui (drt : BitVec 4) (imm : BitVec 5) : Statement (.rolui drt imm) := encode_eq_formula _
theorem EncodingFormula.shrui (drt : BitVec 4) (imm : BitVec 5) : Statement (.shrui drt imm) := encode_eq_formula _
theorem EncodingFormula.rorui (drt : BitVec 4) (imm : BitVec 5) : Statement (.rorui drt imm) := encode_eq_formula _
theorem EncodingFormula.cmpui (drt : BitVec 4) (imm : BitVec 12) : Statement (.cmpui drt imm) := encode_eq_formula _
theorem EncodingFormula.addsr (drt : BitVec 4) (drs : BitVec 4) : Statement (.addsr drt drs) := encode_eq_formula _
theorem EncodingFormula.subsr (drt : BitVec 4) (drs : BitVec 4) : Statement (.subsr drt drs) := encode_eq_formula _
theorem EncodingFormula.negsr (drt : BitVec 4) : Statement (.negsr drt) := encode_eq_formula _
theorem EncodingFormula.shrsr (drt : BitVec 4) (drs : BitVec 4) : Statement (.shrsr drt drs) := encode_eq_formula _
theorem EncodingFormula.cmpsr (drt : BitVec 4) (drs : BitVec 4) : Statement (.cmpsr drt drs) := encode_eq_formula _
theorem EncodingFormula.tstsr (drt : BitVec 4) : Statement (.tstsr drt) := encode_eq_formula _
theorem EncodingFormula.movsi (drt : BitVec 4) (imm : BitVec 12) : Statement (.movsi drt imm) := encode_eq_formula _
theorem EncodingFormula.mccsi (drt : BitVec 4) (cc : BitVec 4) (imm : BitVec 8) : Statement (.mccsi drt cc imm) := encode_eq_formula _
theorem EncodingFormula.addsi (drt : BitVec 4) (imm : BitVec 12) : Statement (.addsi drt imm) := encode_eq_formula _
theorem EncodingFormula.subsi (drt : BitVec 4) (imm : BitVec 12) : Statement (.subsi drt imm) := encode_eq_formula _
theorem EncodingFormula.shrsi (drt : BitVec 4) (imm : BitVec 5) : Statement (.shrsi drt imm) := encode_eq_formula _
theorem EncodingFormula.cmpsi (drt : BitVec 4) (imm : BitVec 12) : Statement (.cmpsi drt imm) := encode_eq_formula _
theorem EncodingFormula.ldur (drt : BitVec 4) (ars : BitVec 2) : Statement (.ldur drt ars) := encode_eq_formula _
theorem EncodingFormula.stur (art : BitVec 2) (drs : BitVec 4) : Statement (.stur art drs) := encode_eq_formula _
theorem EncodingFormula.stui (art : BitVec 2) (imm : BitVec 12) : Statement (.stui art imm) := encode_eq_formula _
theorem EncodingFormula.stsi (art : BitVec 2) (imm : BitVec 14) : Statement (.stsi art imm) := encode_eq_formula _
theorem EncodingFormula.ldso (drt : BitVec 4) (ars : BitVec 2) (imm : BitVec 10) : Statement (.ldso drt ars imm) := encode_eq_formula _
theorem EncodingFormula.stso (art : BitVec 2) (drs : BitVec 4) (imm : BitVec 10) : Statement (.stso art drs imm) := encode_eq_formula _
theorem EncodingFormula.ldaso (art : BitVec 2) (ars : BitVec 2) (imm : BitVec 12) : Statement (.ldaso art ars imm) := encode_eq_formula _
theorem EncodingFormula.staso (art : BitVec 2) (ars : BitVec 2) (imm : BitVec 12) : Statement (.staso art ars imm) := encode_eq_formula _
theorem EncodingFormula.movaur (art : BitVec 2) (drs : BitVec 4) (half : Half) : Statement (.movaur art drs half) := encode_eq_formula _
theorem EncodingFormula.movdur (drt : BitVec 4) (ars : BitVec 2) (half : Half) : Statement (.movdur drt ars half) := encode_eq_formula _
theorem EncodingFormula.addaur (art : BitVec 2) (drs : BitVec 4) : Statement (.addaur art drs) := encode_eq_formula _
theorem EncodingFormula.subaur (art : BitVec 2) (drs : BitVec 4) : Statement (.subaur art drs) := encode_eq_formula _
theorem EncodingFormula.addasr (art : BitVec 2) (drs : BitVec 4) : Statement (.addasr art drs) := encode_eq_formula _
theorem EncodingFormula.subasr (art : BitVec 2) (drs : BitVec 4) : Statement (.subasr art drs) := encode_eq_formula _
theorem EncodingFormula.addasi (art : BitVec 2) (imm : BitVec 12) : Statement (.addasi art imm) := encode_eq_formula _
theorem EncodingFormula.subasi (art : BitVec 2) (imm : BitVec 12) : Statement (.subasi art imm) := encode_eq_formula _
theorem EncodingFormula.leaso (art : BitVec 2) (ars : BitVec 2) (imm : BitVec 12) : Statement (.leaso art ars imm) := encode_eq_formula _
theorem EncodingFormula.adraso (art : BitVec 2) (imm : BitVec 14) : Statement (.adraso art imm) := encode_eq_formula _
theorem EncodingFormula.cmpaur (art : BitVec 2) (ars : BitVec 2) : Statement (.cmpaur art ars) := encode_eq_formula _
theorem EncodingFormula.tstaur (art : BitVec 2) : Statement (.tstaur art) := encode_eq_formula _
theorem EncodingFormula.btp : Statement .btp := encode_eq_formula _
theorem EncodingFormula.jccur (art : BitVec 2) (cc : BitVec 4) : Statement (.jccur art cc) := encode_eq_formula _
theorem EncodingFormula.jccui (cc : BitVec 4) (imm : BitVec 12) : Statement (.jccui cc imm) := encode_eq_formula _
theorem EncodingFormula.bccsr (drt : BitVec 4) (cc : BitVec 4) : Statement (.bccsr drt cc) := encode_eq_formula _
theorem EncodingFormula.bccso (cc : BitVec 4) (imm : BitVec 12) : Statement (.bccso cc imm) := encode_eq_formula _
theorem EncodingFormula.balso (imm : BitVec 16) : Statement (.balso imm) := encode_eq_formula _
theorem EncodingFormula.jsrur (art : BitVec 2) : Statement (.jsrur art) := encode_eq_formula _
theorem EncodingFormula.jsrui (imm : BitVec 12) : Statement (.jsrui imm) := encode_eq_formula _
theorem EncodingFormula.bsrsr (drt : BitVec 4) : Statement (.bsrsr drt) := encode_eq_formula _
theorem EncodingFormula.bsrso (imm : BitVec 16) : Statement (.bsrso imm) := encode_eq_formula _
theorem EncodingFormula.ret : Statement .ret := encode_eq_formula _
theorem EncodingFormula.pushur (art : BitVec 2) (drs : BitVec 4) : Statement (.pushur art drs) := encode_eq_formula _
theorem EncodingFormula.pushaur (art : BitVec 2) (ars : BitVec 2) : Statement (.pushaur art ars) := encode_eq_formula _
theorem EncodingFormula.popur (drt : BitVec 4) (ars : BitVec 2) : Statement (.popur drt ars) := encode_eq_formula _
theorem EncodingFormula.popaur (art : BitVec 2) (ars : BitVec 2) : Statement (.popaur art ars) := encode_eq_formula _
theorem EncodingFormula.csrrd (drt : BitVec 4) (csr : BitVec 8) : Statement (.csrrd drt csr) := encode_eq_formula _
theorem EncodingFormula.csrwr (drs : BitVec 4) (csr : BitVec 8) : Statement (.csrwr drs csr) := encode_eq_formula _
theorem EncodingFormula.srhlt : Statement .srhlt := encode_eq_formula _
theorem EncodingFormula.setssp (ars : BitVec 2) : Statement (.setssp ars) := encode_eq_formula _
theorem EncodingFormula.swi (imm : BitVec 12) : Statement (.swi imm) := encode_eq_formula _
theorem EncodingFormula.srmovur (srt : BitVec 2) (srs : BitVec 2) : Statement (.srmovur srt srs) := encode_eq_formula _
theorem EncodingFormula.srmovaur (srt : BitVec 2) (ars : BitVec 2) : Statement (.srmovaur srt ars) := encode_eq_formula _
theorem EncodingFormula.srjccso (srt : BitVec 2) (cc : BitVec 4) (imm : BitVec 10) : Statement (.srjccso srt cc imm) := encode_eq_formula _
theorem EncodingFormula.sraddsi (srt : BitVec 2) (imm : BitVec 14) : Statement (.sraddsi srt imm) := encode_eq_formula _
theorem EncodingFormula.srsubsi (srt : BitVec 2) (imm : BitVec 14) : Statement (.srsubsi srt imm) := encode_eq_formula _
theorem EncodingFormula.srstso (srt : BitVec 2) (srs : BitVec 2) (imm : BitVec 12) : Statement (.srstso srt srs imm) := encode_eq_formula _
theorem EncodingFormula.srldso (srt : BitVec 2) (srs : BitVec 2) (imm : BitVec 12) : Statement (.srldso srt srs imm) := encode_eq_formula _
end Sys2Proof.Laws
end

