-- ==== Sys2Proof/Machine/Load.lean ====
section
/-!
DEFINITION. The check of a program text at load, before it executes (`spec/93_implementation_defined.md`, treatment
`refuse`). It refuses the words that select no instruction (U2, U3, U4, U6, U13) but for the empty opclasses, which are
a fault when a run reaches them (U5); a condition code without a meaning (U8); and what violates the LUIui hazard
(`spec/70_reset_and_hazards.md` R310, U1). No step calls it: the spec names no loader (log entries 14, 30 and 31).
-/

namespace Sys2Proof.Machine

/-! ## A text, word by word -/

/-- The cause is a ground to refuse a program text that holds the word (U2 to U6, U13). -/
def refusesText : ReservedCause → Bool
  | .reservedBits => true
  | .unassignedSubop => true
  | .emptyOpclass => false
  | .uopNotFetchable => true
  | .noSuchBank => true
  | .noSpecialRegister => true

/-- The instruction a word of a text is, or why it is none. A RESERVED bit counts here whatever `RESERVED_BITS_STRICT`
says: R76 asks that a program with such a word "still be refused" where a step ignores the bit. DESIGN CHOICE, log
entry 7. -/
def decodeText (p : Params) (w : Word) : Except ReservedCause Instr :=
  decode { p with reservedBitsStrict := true } w

/-- What an unbroken run of LUIui has loaded into each bank, `none` for a bank it has not loaded (R36). -/
abbrev LuiRun := Vector (Option Bank) 3

/-- No LUIui so far. -/
def noRun : LuiRun := Vector.replicate 3 none

/-- The run after one more word of the text: LUIui adds its bank, anything else breaks it (R36, R121). -/
def runAfter (run : LuiRun) : Except ReservedCause Instr → LuiRun
  | .ok (.luiui x imm) => if h : x.toNat < 3 then run.set x.toNat (some imm) else run
  | _ => noRun

/-- The 48-bit address that a run and the 12 bits of its consumer make, if the run loads all banks (R35). -/
def runAddress (run : LuiRun) (imm : BitVec 12) : Option Addr :=
  match run[2], run[1], run[0] with
  | some b2, some b1, some b0 => some (b2 ++ b1 ++ b0 ++ imm)
  | _, _, _ => none

/-- A word of a text, where it stands, what it decodes to, and the run of LUIui just before it in the text. -/
structure TextWord where
  addr : Addr
  word : Word
  decoded : Except ReservedCause Instr
  run : LuiRun

/-- The words of a text that starts at `addr` after the run `run`. -/
def textWords (p : Params) (addr : Addr) (run : LuiRun) : List Word → List TextWord
  | [] => []
  | w :: text =>
    { addr := addr, word := w, decoded := decodeText p w, run := run } ::
      textWords p (add48 addr 1) (runAfter run (decodeText p w)) text

/-! ## The grounds to refuse a text -/

/-- The ground that a word itself gives: it selects no instruction (U2 to U4, U6, U13); it reads a bank that the run
before it does not load (U1, R310); its condition code has no meaning (U8). -/
def TextWord.ground (p : Params) (x : TextWord) : Option Refusal :=
  match x.decoded with
  | .error cause => if refusesText cause then some (.reservedEncoding x.word cause) else none
  | .ok i =>
    if (banksRead i).all fun b => x.run[b].isSome then
      match conditionOf i with
      | some cc => if p.ccTable[cc.toNat]'cc.isLt = none then some (.condReserved cc) else none
      | none => none
    else some (.luiRunMissing x.addr)

/-- Where an instruction at `pc` may branch to, if the text says it: a displacement from PC, or an address from the run
before it (R203, R205, R206, R208, R210, R243; the micro-operations on PC: R253 to R255). A target in a register is not
in the text. -/
def branchTarget (p : Params) (pc : Addr) (run : LuiRun) : Instr → Option Addr
  | .bccso _ imm => some (offsetAddr pc imm)
  | .balso imm | .bsrso imm => some (offsetAddr pc imm)
  | .jccui _ imm | .jsrui imm | .swi imm => runAddress run imm
  | .srjccso t _ imm => if p.specialReg t = some .pc then some (offsetAddr pc imm) else none
  | .sraddsi t imm => if p.specialReg t = some .pc then some (add48 pc (sext48 imm)) else none
  | .srsubsi t imm => if p.specialReg t = some .pc then some (sub48 pc (sext48 imm)) else none
  | _ => none

/-- The branch target of a word of a text. -/
def TextWord.target (p : Params) (x : TextWord) : Option Addr :=
  match x.decoded with
  | .ok i => branchTarget p x.addr x.run i
  | .error _ => none

/-- The words go on with LUIui, as many as there are, and then a consumer of `uimm` (R36). -/
def leadsToConsumer : List TextWord → Bool
  | [] => false
  | x :: rest =>
    match x.decoded with
    | .ok (.luiui _ _) => leadsToConsumer rest
    | .ok i => !(banksRead i).isEmpty
    | .error _ => false

/-- The addresses inside a run of LUIui and its consumer: those of its words but the first (R310). -/
def insideRuns : List TextWord → List Addr
  | [] => []
  | x :: rest => if x.run ≠ noRun && leadsToConsumer (x :: rest) then x.addr :: insideRuns rest else insideRuns rest

/-- The refusal of a program text at `base`, at load, if there is ground for one: that of its first word that gives a
ground, else an entry at reset or by a branch of the text into the middle of a run of LUIui and its consumer (R310). The
text is a list of instruction words; what stands in memory as data is no part of it (log entries 30 and 31). -/
def refusedAtLoad (p : Params) (base : Addr) (text : List Word) : Option Refusal :=
  let words := textWords p base noRun text
  let entries := p.resetPc :: words.filterMap (TextWord.target p)
  (words.findSome? (TextWord.ground p)).or
    ((entries.find? fun a => (insideRuns words).contains a).map .luiRunEntered)

end Sys2Proof.Machine
end

