-- ==== Sys2Proof/Machine/Macros.lean ====
section
/-!
DEFINITION. What the assembler makes of the ten macros (`spec/30_encoding.md` R82) and of an immediate (R83). No
instruction depends on this file: a macro is the list of instructions it stands for.
-/

namespace Sys2Proof.Machine

/-- The macros, named by their `isa` lines (R82). -/
inductive Macro where
  /-- `copy imm24, dt` -/
  | copy (imm : Word) (dt : BitVec 4)
  /-- `add.u imm24, dt` -/
  | addU (imm : Word) (dt : BitVec 4)
  /-- `sub.u imm24, dt` -/
  | subU (imm : Word) (dt : BitVec 4)
  /-- `and imm24, dt` -/
  | and (imm : Word) (dt : BitVec 4)
  /-- `or imm24, dt` -/
  | or (imm : Word) (dt : BitVec 4)
  /-- `xor imm24, dt` -/
  | xor (imm : Word) (dt : BitVec 4)
  /-- `comp.u imm24, dt` -/
  | compU (imm : Word) (dt : BitVec 4)
  /-- `store imm24, (at)` -/
  | store (imm : Word) (at_ : BitVec 2)
  /-- `jump.[cc] imm48` -/
  | jump (cc : BitVec 4) (imm : Addr)
  /-- `jump_sub imm48` -/
  | jumpSub (imm : Addr)
deriving DecidableEq, Repr

/-- LUIui for the upper half of a 24-bit immediate, then the consumer of the lower half (R82). -/
def splitImm24 (imm : Word) (last : BitVec 12 → Instr) : List Instr :=
  [.luiui 0 (imm.extractLsb' 12 12), last (imm.extractLsb' 0 12)]

/-- LUIui for the three upper parts of a 48-bit immediate, then the consumer of the lowest part (R82). -/
def splitImm48 (imm : Addr) (last : BitVec 12 → Instr) : List Instr :=
  [.luiui 2 (imm.extractLsb' 36 12), .luiui 1 (imm.extractLsb' 24 12), .luiui 0 (imm.extractLsb' 12 12),
    last (imm.extractLsb' 0 12)]

/-- The instructions a macro expands to, in this order, with nothing between them (R82). -/
def expand : Macro → List Instr
  | .copy imm dt => splitImm24 imm (.movui dt)
  | .addU imm dt => splitImm24 imm (.addui dt)
  | .subU imm dt => splitImm24 imm (.subui dt)
  | .and imm dt => splitImm24 imm (.andui dt)
  | .or imm dt => splitImm24 imm (.orui dt)
  | .xor imm dt => splitImm24 imm (.xorui dt)
  | .compU imm dt => splitImm24 imm (.cmpui dt)
  | .store imm at_ => splitImm24 imm (.stui at_)
  | .jump cc imm => splitImm48 imm (.jccui cc)
  | .jumpSub imm => splitImm48 imm .jsrui

/-- A sign-extended immediate of `n` bits: two's complement from `-2^(n-1)` to `2^(n-1) - 1`, else refused (R83,
D33). -/
def signedImm (n : Nat) (v : Int) : Option (BitVec n) :=
  if -2 ^ (n - 1) ≤ v ∧ v < 2 ^ (n - 1) then some (BitVec.ofInt n v) else none

/-- An unsigned immediate of `n` bits: from 0 to `2^n - 1`, else refused (R83, D33). -/
def unsignedImm (n v : Nat) : Option (BitVec n) := if v < 2 ^ n then some (BitVec.ofNat n v) else none

/-- The bank number `#x` of LUIui: 0, 1 or 2, else refused (R83). -/
def bankImm (v : Nat) : Option (BitVec 2) := if v < 3 then some (BitVec.ofNat 2 v) else none

/-- The operand of a PC-relative form of `n` bits at `pc` that is to reach `target`: `target - pc`, as a signed
number (R83). -/
def displacement (n : Nat) (pc target : Addr) : Option (BitVec n) := signedImm n (target - pc).toInt

end Sys2Proof.Machine
end

