-- ==== Sys2Proof/Safety.lean ====
section
/-!
DEFINITION. The terms claims are stated in: what can be observed of a state, what an instruction leaves unchanged,
how a step ends, and the invariant of the model.
-/

namespace Sys2Proof.Machine

/-- A place that holds state, PC and the `loaded` bits apart (how a step leaves those two is said beside a frame:
see `Advances` and `Continues`). -/
inductive Loc where
  | dr (i : BitVec 4)
  | ar (i : BitVec 2)
  | lr
  | ssp
  | sr3
  | z
  | c
  | n
  | v
  | bank (x : Fin 3)
  | csr (n : BitVec 8)
  | halted
  /-- One cell of memory. -/
  | cell (a : Addr)
  /-- Whether the program has stored to the cell (the model's own field `stored`). -/
  | mark (a : Addr)
  /-- The count of free values drawn (the model's own field `draws`). -/
  | draws
deriving DecidableEq, Repr

/-- The content of one cell of memory, if it holds a value (R52, R45). -/
def State.cell (s : State) (a : Addr) : Option Word := readCell s.mem a.toNat

/-- What a place holds, as a number; `none` for a cell that holds no value. -/
def State.observe (s : State) : Loc → Option Nat
  | .dr i => some (s.getDr i).toNat
  | .ar i => some (s.getAr i).toNat
  | .lr => some s.lr.toNat
  | .ssp => some s.ssp.toNat
  | .sr3 => some s.sr3.toNat
  | .z => some s.flags.z.toNat
  | .c => some s.flags.c.toNat
  | .n => some s.flags.n.toNat
  | .v => some s.flags.v.toNat
  | .bank x => some (s.bank[x]).toNat
  | .csr n => some (s.csr[n.toNat]'n.isLt).toNat
  | .halted => some s.halted.toNat
  | .cell a => (s.cell a).map BitVec.toNat
  | .mark a => some (s.stored.contains a.toNat).toNat
  | .draws => some s.draws

/-- The frame: every place but the listed ones holds what it held, and the parameters are the same. -/
def Frame (changed : List Loc) (s t : State) : Prop :=
  t.params = s.params ∧ ∀ l, l ∉ changed → t.observe l = s.observe l

/-- The places a one-cell store at `a` changes. -/
def storedAt (a : Addr) : List Loc := [.cell a, .mark a]

/-- The places a two-cell store at `a` changes (R53). -/
def storedWideAt (a : Addr) : List Loc := [.cell a, .cell (a + 1), .mark a, .mark (a + 1)]

/-- The step goes on at `a`, with no bank loaded (R40 steps 4 and 5). -/
def Continues (a : Addr) (t : State) : Prop := t.pc = a ∧ t.loaded = noneLoaded

/-- The step goes on at the next cell, with no bank loaded (R40 steps 4 and 5). -/
def Advances (s t : State) : Prop := Continues (s.pc + 1) t

/-- The instruction runs from `s`: it gives a next state, with what `post` says of it. -/
def Runs (i : Instr) (s : State) (post : State → Prop) : Prop := ∃ t, exec i s = .next t ∧ post t

/-- `{Z}` and a 24-bit result in DRt (R27, R29). -/
def WritesZ (t : BitVec 4) (r : Word) (s s' : State) : Prop :=
  s'.getDr t = r ∧ (s'.flags.z = true ↔ r = 0) ∧ Advances s s' ∧ Frame [.dr t, .z] s s'

/-- `{Z, C}` and a 24-bit result in DRt (R27, R30). -/
def WritesZC (t : BitVec 4) (r : Word) (c : Prop) (s s' : State) : Prop :=
  s'.getDr t = r ∧ (s'.flags.z = true ↔ r = 0) ∧ (s'.flags.c = true ↔ c) ∧ Advances s s' ∧
    Frame [.dr t, .z, .c] s s'

/-- `{Z, N}` and a 24-bit result in DRt (R27, R31): `N` is 1 exactly when the result is negative. -/
def WritesZN (t : BitVec 4) (r : Word) (s s' : State) : Prop :=
  s'.getDr t = r ∧ (s'.flags.z = true ↔ r = 0) ∧ (s'.flags.n = true ↔ r.toInt < 0) ∧ Advances s s' ∧
    Frame [.dr t, .z, .n] s s'

/-- `{Z, N, V}` and in DRt the exact signed result `x` modulo 2^24; `V` is 1 exactly when `x` lies outside -2^23 to
2^23 - 1 (R27, R31). -/
def WritesZNV (t : BitVec 4) (x : Int) (s s' : State) : Prop :=
  s'.getDr t = BitVec.ofInt 24 x ∧ (s'.flags.z = true ↔ BitVec.ofInt 24 x = 0) ∧
    (s'.flags.n = true ↔ (BitVec.ofInt 24 x).toInt < 0) ∧ (s'.flags.v = true ↔ x < -2 ^ 23 ∨ 2 ^ 23 ≤ x) ∧
    Advances s s' ∧ Frame [.dr t, .z, .n, .v] s s'

/-- `{Z, N, C}` and in DRt a signed result (R27, R33). -/
def WritesZNC (t : BitVec 4) (x : Int) (c : Prop) (s s' : State) : Prop :=
  (s'.getDr t).toInt = x ∧ (s'.flags.z = true ↔ x = 0) ∧ (s'.flags.n = true ↔ x < 0) ∧ (s'.flags.c = true ↔ c) ∧
    Advances s s' ∧ Frame [.dr t, .z, .n, .c] s s'

/-- Nothing is written: the step only goes on at the next cell. -/
def WritesNothing (s s' : State) : Prop := Advances s s' ∧ Frame [] s s'

/-- A special register is written last: PC is a control transfer, the others let the step advance (R250). -/
def WritesSr (r : SpecialReg) (v : Addr) (s s' : State) : Prop :=
  match r with
  | .pc => Continues v s' ∧ Frame [] s s'
  | .lr => s'.lr = v ∧ Advances s s' ∧ Frame [.lr] s s'
  | .ssp => s'.ssp = v ∧ Advances s s' ∧ Frame [.ssp] s s'

/-- The two cells at `a` hold the 48-bit value `v`: low half first with `WIDE_LOW_FIRST`, else high half first
(R53, D6). -/
def State.holdsWide (s : State) (a : Addr) (v : Addr) : Prop :=
  let lo := v.extractLsb' 0 24
  let hi := v.extractLsb' 24 24
  if s.params.wideLowFirst then s.cell a = some lo ∧ s.cell (a + 1) = some hi
  else s.cell a = some hi ∧ s.cell (a + 1) = some lo

/-- The platform admits the access at both cells of a two-cell access. -/
def admitsWide (p : Params) (a : Addr) (kind : AccessKind) : Prop :=
  memAdmits p a kind = true ∧ memAdmits p (a + 1) kind = true

/-- The outcome of an instruction that reads the cell `a`, where it cannot (R58): `NoMemory` where the platform rejects
the read, and the model's stop where the cell holds no value (log entry 13). -/
def StopsAtRead (x : Run State) (s : State) (a : Addr) : Prop :=
  (memAdmits s.params a .read = false → x = .fault (.noMemory a)) ∧
  (memAdmits s.params a .read = true → s.cell a = none → x = .fault (.unwrittenMemory a))

/-- The outcome of an instruction that writes the cell `a`, where the platform rejects the write (R58). -/
def StopsAtWrite (x : Run State) (s : State) (a : Addr) : Prop :=
  memAdmits s.params a .write = false → x = .fault (.noMemory a)

/-- The outcome of an instruction that reads the cells `a` and `a + 1`, where it cannot: the first cell's stop, and the
second's only once the first has been read (R53, R56, R272). -/
def StopsAtWideRead (x : Run State) (s : State) (a : Addr) : Prop :=
  StopsAtRead x s a ∧
  (memAdmits s.params a .read = true → (s.cell a).isSome = true → StopsAtRead x s (a + 1))

/-- The outcome of an instruction that writes the cells `a` and `a + 1`, where the platform rejects one: the first
cell's stop, and the second's only where the first is admitted (R53, R56, R272). -/
def StopsAtWideWrite (x : Run State) (s : State) (a : Addr) : Prop :=
  StopsAtWrite x s a ∧ (memAdmits s.params a .write = true → StopsAtWrite x s (a + 1))

/-- The link sequence is done and the call goes on at `a` (R212). -/
def Links (a : Addr) (s s' : State) : Prop :=
  s'.ssp = s.ssp - 2 ∧ s'.lr = s.pc ∧ s'.holdsWide (s.ssp - 2) s.lr ∧ Continues a s' ∧
    Frame ([.ssp, .lr] ++ storedWideAt (s.ssp - 2)) s s'

/-- The instructions of a list one after another, PC held at the first one's address and the `loaded` bits kept
until the last (R41). -/
def runUops : List Instr → State → Run State
  | [], s => .next s
  | [i], s => exec i s
  | i :: j :: is, s =>
    andThen (exec i s) fun t => runUops (j :: is) { t with pc := s.pc, loaded := s.loaded }

/-- The instructions of a list one after another, each as a step of its own would run it. -/
def runInstrs : List Instr → State → Run State
  | [], s => .next s
  | i :: is, s => andThen (exec i s) (runInstrs is)

/-- The instructions of a list run from `s`, with what `post` says of the state after the last. -/
def RunsAll (is : List Instr) (s : State) (post : State → Prop) : Prop := ∃ t, runInstrs is s = .next t ∧ post t

/-- The words of some LUIui, one after another, by their bank and value (R121). -/
def luiWords (luis : List (BitVec 2 × Bank)) : List Word := luis.map fun l => encode (.luiui l.1 l.2)

/-- The last word of the text, if there is one, is no LUIui. -/
def EndsInNoLui (text : List Word) : Prop := ∀ x imm, text.getLast? ≠ some (encode (.luiui x imm))

/-- The address of the word number `k` of a text at `base`. -/
def wordAddr (base : Addr) (k : Nat) : Addr := base + BitVec.ofNat 48 k

/-- The flags in an instruction's braces (R27). -/
def braces : Instr → List Loc
  | .movur _ _ | .notur _ | .andur _ _ | .orur _ _ | .xorur _ _ | .tstur _ | .movui _ _ | .andui _ _ | .orui _ _
  | .xorui _ _ | .movdur _ _ _ | .tstaur _ | .csrrd _ _ | .mccur _ _ _ | .mccsi _ _ _ => [.z]
  | .addur _ _ | .subur _ _ | .cmpur _ _ | .addui _ _ | .subui _ _ | .cmpui _ _ | .cmpaur _ _ | .shlur _ _
  | .rolur _ _ | .shrur _ _ | .rorur _ _ | .shlui _ _ | .rolui _ _ | .shrui _ _ | .rorui _ _ => [.z, .c]
  | .tstsr _ | .movsi _ _ => [.z, .n]
  | .addsr _ _ | .subsr _ _ | .negsr _ | .cmpsr _ _ | .addsi _ _ | .subsi _ _ | .cmpsi _ _ => [.z, .n, .v]
  | .shrsr _ _ | .shrsi _ _ => [.z, .n, .c]
  | _ => []

/-- The four calls (R200). -/
def isCall : Instr → Bool
  | .jsrur _ | .jsrui _ | .bsrsr _ | .bsrso _ => true
  | _ => false

/-- The micro-operations of opclass 1111 (R250). -/
def isUop : Instr → Bool
  | .srmovur _ _ | .srmovaur _ _ | .srjccso _ _ _ | .sraddsi _ _ | .srsubsi _ _ | .srstso _ _ _ | .srldso _ _ _ => true
  | _ => false

/-- The instructions that read or write memory beyond their fetch (R57). -/
def accessesMemory : Instr → Bool
  | .ldur _ _ | .stur _ _ | .stui _ _ | .stsi _ _ | .ldso _ _ _ | .stso _ _ _ | .ldaso _ _ _ | .staso _ _ _
  | .pushur _ _ | .pushaur _ _ | .popur _ _ | .popaur _ _ | .jsrur _ | .jsrui _ | .bsrsr _ | .bsrso _ | .ret
  | .srstso _ _ _ | .srldso _ _ _ => true
  | _ => false

/-- The instructions that write memory (R57). -/
def writesMemory : Instr → Bool
  | .stur _ _ | .stui _ _ | .stsi _ _ | .stso _ _ _ | .staso _ _ _ | .pushur _ _ | .pushaur _ _ | .jsrur _ | .jsrui _
  | .bsrsr _ | .bsrso _ | .srstso _ _ _ => true
  | _ => false

/-- The instruction has a condition field (R42). -/
def isConditional (i : Instr) : Bool := (conditionOf i).isSome

/-- An access to memory beyond the fetch, by its first cell and its width (R57). -/
inductive Access where
  | read (a : Addr)
  | write (a : Addr)
  | wideRead (a : Addr)
  | wideWrite (a : Addr)
deriving DecidableEq, Repr

/-- The table of R57: the access an instruction makes, and for the micro-operations that of R256 and R257. None for a
micro-operation whose base code names no special register. -/
def dataAccess (s : State) : Instr → Option Access
  | .ldur _ b => some (.read (s.getAr b))
  | .stur t _ | .stui t _ | .stsi t _ => some (.write (s.getAr t))
  | .ldso _ b imm => some (.read (s.getAr b + BitVec.ofInt 48 imm.toInt))
  | .stso t _ imm => some (.write (s.getAr t + BitVec.ofInt 48 imm.toInt))
  | .ldaso _ b imm => some (.wideRead (s.getAr b + BitVec.ofInt 48 imm.toInt))
  | .staso t _ imm => some (.wideWrite (s.getAr t + BitVec.ofInt 48 imm.toInt))
  | .pushur t _ => some (.write (s.getAr t - 1))
  | .pushaur t _ => some (.wideWrite (s.getAr t - 2))
  | .popur _ b => some (.read (s.getAr b))
  | .popaur _ b => some (.wideRead (s.getAr b))
  | .jsrur _ | .jsrui _ | .bsrsr _ | .bsrso _ => some (.wideWrite (s.ssp - 2))
  | .ret => some (.wideRead s.ssp)
  | .srstso t _ imm => (s.params.specialReg t).map fun r => .wideWrite (s.getSr r + BitVec.ofInt 48 imm.toInt)
  | .srldso _ b imm => (s.params.specialReg b).map fun r => .wideRead (s.getSr r + BitVec.ofInt 48 imm.toInt)
  | _ => none

/-- The outcome `x` of an instruction that makes the access from `s`, where it cannot be made (R58, R272). -/
def Access.Stops (x : Run State) (s : State) : Access → Prop
  | .read a => StopsAtRead x s a
  | .write a => StopsAtWrite x s a
  | .wideRead a => StopsAtWideRead x s a
  | .wideWrite a => StopsAtWideWrite x s a

/-- The cells an access writes (R52, R53). -/
def Access.written : Access → List Addr
  | .write a => [a]
  | .wideWrite a => [a, a + 1]
  | .read _ | .wideRead _ => []

/-- The cells an instruction stores to from `s` (R57). -/
def storedCells (i : Instr) (s : State) : List Addr :=
  match dataAccess s i with
  | some x => x.written
  | none => []

/-- What a fetch at PC gives where the program has stored to the cell: its content with `IFETCH_COHERENT`, and the
refusal without it (R64; log entry 8). -/
def FetchesStoredCell (s : State) : Prop :=
  memAdmits s.params s.pc .fetch = true → ∀ w, s.cell s.pc = some w →
    (s.params.ifetchCoherent = true → fetch s = .next w) ∧
    (s.params.ifetchCoherent = false → fetch s = .refused (.storedCellFetched s.pc))

/-- The same outcome, its next state changed by `f`. -/
def onNext (f : State → State) (x : Run State) : Run State := andThen x fun t => .next (f t)

/-- Every bank of the list is loaded (R36). -/
def State.banksLoaded (s : State) (banks : List (Fin 3)) : Bool := banks.all fun x => s.loaded[x]

/-- The invariant of the model: memory and the list of stored addresses are in canonical form, a cell the program
has stored to holds a value, and the parameters are as R22 and R42 ask. -/
def State.inv (s : State) : Bool :=
  Memory.wf s.mem && addressesWfFrom 0 s.stored && s.stored.all (fun a => (readCell s.mem a).isSome) &&
    paramsWf s.params

/-- How a run may end well: SRHLT has executed (R241, U16). -/
def endsWell : Host.Outcome State Fault Refusal → Bool
  | .fault .halted => true
  | .next _ => true
  | .fault _ => false
  | .refused _ => false

end Sys2Proof.Machine
end

