-- ==== Sys2Proof/Certificates/Slice0/Obligations.lean ====
section
/-!
DEFINITION. The statements for the provers. A statement about a condition code, a reserved bit, a two-cell value or a
reset value holds for every value of the parameter concerned; where one rests on a choice of the spec's or of the
model's, its docstring names the decision or the log entry.
-/

open Sys2Proof Sys2Proof.Machine

/-! ## The step, reset and the invariant -/

/-- R40 steps 1 to 3: a running state whose fetch is admitted and whose cell at PC decodes runs the decoded
instruction, and nothing is added around it. -/
def Obligations.StepRunsTheDecodedInstruction : Prop :=
  ∀ (s : State) (w : Word) (i : Instr),
    s.halted = false → memAdmits s.params s.pc .fetch = true → s.cell s.pc = some w →
    (s.params.ifetchCoherent = true ∨ s.pc.toNat ∉ s.stored) → decode s.params w = .ok i →
    step s = exec i s

/-- R241, R38: SRHLT sets `halted`, keeps PC and every other place, and the halted state has no further step. That
the model answers a next state here and stops one step later is its form of "raise Halted" (log entry 15). -/
def Obligations.HaltEndsTheRun : Prop :=
  ∀ s : State,
    Runs .srhlt s (fun t => t.halted = true ∧ t.pc = s.pc ∧ t.loaded = s.loaded ∧ Frame [.halted] s t ∧
      step t = .fault .halted)

/-- R38: no instruction but SRHLT changes `halted`, so none clears it. -/
def Obligations.OnlyHaltChangesHalted : Prop :=
  ∀ (i : Instr) (s t : State), exec i s = .next t → t.halted = (s.halted || decide (i = .srhlt))

/-- R44: after reset PC is `RESET_PC`, `halted` is 0 and `loaded` is 000, whatever the parameters are. -/
def Obligations.ResetGivesTheStatedValues : Prop :=
  ∀ p : Params, (State.resetWith p).pc = p.resetPc ∧ (State.resetWith p).halted = false ∧
    (∀ x : Fin 3, (State.resetWith p).loaded[x] = false) ∧ ∀ a : Addr, (State.resetWith p).cell a = none

/-- The reset state meets the invariant that every step keeps. -/
def Obligations.ResetMeetsTheInvariant : Prop := State.reset.inv = true

/-- The invariant (canonical memory, stored cells hold values, parameters as R22 and R42 ask) is kept by a step
from every state that meets it. -/
def Obligations.StepKeepsTheInvariant : Prop :=
  ∀ s t : State, s.inv = true → step s = .next t → t.inv = true

/-- R272 (D25): the outcomes of a step come in the order fetch, decode, the check of the banks, the check of the
condition, and the data accesses, first cell before second. A fetch or read of a cell without a value is the model's
stop (log entry 13); which cells the platform rejects is the open parameter D30 (log entry 4); the banks are checked
as D15 and D36 say (log entry 19). A word that selects no
instruction is a fault or a refusal as U2 to U6 and U13 say of its cause (R12), an unassigned subop a fault however
the run came to it (log entry 30). -/
def Obligations.OutcomesComeInOrder : Prop :=
  ∀ s : State, s.halted = false →
    (memAdmits s.params s.pc .fetch = false → step s = .fault (.noMemory s.pc)) ∧
    (memAdmits s.params s.pc .fetch = true → s.cell s.pc = none → step s = .fault (.unwrittenMemory s.pc)) ∧
    (∀ w cause, fetch s = .next w → decode s.params w = .error cause →
      (cause = .emptyOpclass ∨ cause = .unassignedSubop → step s = .fault (.reservedEncoding w cause)) ∧
      (cause ≠ .emptyOpclass → cause ≠ .unassignedSubop → step s = .refused (.reservedEncoding w cause))) ∧
    (∀ w i, fetch s = .next w → decode s.params w = .ok i →
      (s.banksLoaded (banksRead i) = false → step s = .fault .uimmNotLoaded) ∧
      (s.banksLoaded (banksRead i) = true →
        (∀ cc, conditionOf i = some cc → ccHolds s.params cc s.flags = none → step s = .refused (.condReserved cc)) ∧
        (∀ x, dataAccess s i = some x → x.Stops (step s) s)))

/-- R64, R312 (D27, log entry 8): every cell an instruction stores to holds a value and counts as stored to, no
instruction takes that mark back, and the fetch of such a cell gives its content with `IFETCH_COHERENT` and is refused
without it. So after a store (STur as the example) a fetch of the cell gives the stored value or the refusal. -/
def Obligations.StoredCellIsFetchedOrRefused : Prop :=
  (∀ (i : Instr) (s s' : State), exec i s = .next s' →
    (∀ a ∈ storedCells i s, (s'.cell a).isSome = true ∧ s'.stored.contains a.toNat = true) ∧
    (∀ a : Addr, s.stored.contains a.toNat = true → s'.stored.contains a.toNat = true)) ∧
  (∀ s : State, s.stored.contains s.pc.toNat = true → FetchesStoredCell s) ∧
  (∀ (t : BitVec 2) (u : BitVec 4) (s s' : State),
    exec (.stur t u) s = .next s' → s'.pc = s.getAr t → memAdmits s'.params s'.pc .fetch = true →
    (s.params.ifetchCoherent = true → fetch s' = .next (s.getDr u)) ∧
    (s.params.ifetchCoherent = false → fetch s' = .refused (.storedCellFetched s'.pc)))

/-! ## Encoding -/

/-- Words the spec writes out (`95_test_vectors.md`) decode to what it says they are. -/
def Obligations.WordsOfTheSpecDecode : Prop :=
  decode defaultParams 0x035500 = .ok (.addur 5 5) ∧ decode defaultParams 0x1D1456 = .ok (.cmpui 1 0x456) ∧
  decode defaultParams 0x2B2100 = .ok (.shrsr 2 1) ∧ decode defaultParams 0x31107F = .ok (.mccsi 1 0 0x7F) ∧
  decode defaultParams 0x424456 = .ok (.stui 1 0x456) ∧ decode defaultParams 0x529004 = .ok (.ldaso 2 1 4) ∧
  decode defaultParams 0x614E00 = .ok (.movaur 1 3 .high) ∧ decode defaultParams 0x717800 = .ok (.jccur 1 14) ∧
  decode defaultParams 0x81E000 = .ok (.pushaur 3 2) ∧ decode defaultParams 0x911442 = .ok (.csrwr 5 0x42) ∧
  decode defaultParams 0xA1C000 = .ok (.setssp 3) ∧ decode defaultParams 0xF04000 = .error .uopNotFetchable

/-- R71, R73 to R75: decoding the word of a well-formed instruction gives the instruction back, with every operand,
under all parameters; a micro-operation needs `UOP_CLASS_FETCHABLE` (R79). -/
def Obligations.DecodingAnEncodedInstructionGivesItBack : Prop :=
  ∀ (p : Params) (i : Instr), i.wellFormed p = true → (isUop i = true → p.uopClassFetchable = true) →
    decode p (encode i) = .ok i

/-- R76, R83: with `RESERVED_BITS_STRICT`, a word that decodes is the word of the instruction it decodes to, and that
instruction is well formed, so no two words decode alike. -/
def Obligations.EncodingADecodedWordGivesItBack : Prop :=
  ∀ (p : Params) (w : Word) (i : Instr), p.reservedBitsStrict = true → decode p w = .ok i →
    encode i = w ∧ i.wellFormed p = true

/-- R71: bits [23:20] and [19:16] of a word select the instruction and no other bit takes part: a word that decodes has
the fixed part of its instruction there, and two words that decode have the same eight bits exactly when they decode to
the same instruction, their operands apart. -/
def Obligations.OpclassAndSubopSelectTheInstruction : Prop :=
  ∀ (p : Params) (w : Word) (i : Instr), decode p w = .ok i →
    w &&& 0xFF0000 = encode i &&& 0xFF0000 ∧
    ∀ (w' : Word) (i' : Instr), decode p w' = .ok i' →
      (w &&& 0xFF0000 = w' &&& 0xFF0000 ↔ i.ctorIdx = i'.ctorIdx)

/-- R77, R78, R79 (D18, D19): the four empty opclasses, every subop without an entry, and opclass 1111 unless
`UOP_CLASS_FETCHABLE`, select no instruction, under all parameters. A step that fetches such a word faults for the
first two and refuses the third (R12, U4 to U6, log entry 30), and a program text is refused at load at a word of the
last two kinds when the words before it give no ground, while a word of an empty opclass is never named as a ground, and
one more of them does not make an accepted text refused. A word of opclass 1111 with a subop without an entry is both
R77's and, unless `UOP_CLASS_FETCHABLE`, R79's: the model takes R79's outcome (DESIGN CHOICE, log entry 25). -/
def Obligations.UnassignedOpcodesAreReserved : Prop :=
  ∀ (p : Params) (w : Word),
    let opclass := (w.toNat / 2 ^ 20) % 16
    let subop := (w.toNat / 2 ^ 16) % 16
    let free : List Nat :=
      match opclass with
      | 0 => [15]
      | 1 => [2, 5, 14, 15]
      | 2 => [0, 1, 2, 6, 7, 8, 9, 10, 12, 15]
      | 3 => [2, 5, 6, 7, 8, 9, 10, 12, 14, 15]
      | 4 | 5 | 8 => [4, 5, 6, 7, 8, 9, 10, 11, 12, 13, 14, 15]
      | 6 => [0, 11, 12, 15]
      | 7 => [11, 12, 13, 14, 15]
      | 9 => [2, 3, 4, 5, 6, 7, 8, 9, 10, 11, 12, 13, 14, 15]
      | 10 => [3, 4, 5, 6, 7, 8, 9, 10, 11, 12, 13, 14, 15]
      | 15 => [7, 8, 9, 10, 11, 12, 13, 14, 15]
      | _ => []
    let fetched (x : Run State) := ∀ s : State, s.params = p → s.halted = false → fetch s = .next w → step s = x
    let refusesAText (cause : ReservedCause) := ∀ (base : Addr) (before after : List Word),
      refusedAtLoad p base before = none →
      refusedAtLoad p base (before ++ w :: after) = some (.reservedEncoding w cause)
    (opclass ∈ [11, 12, 13, 14] → decode p w = .error .emptyOpclass ∧
      fetched (.fault (.reservedEncoding w .emptyOpclass)) ∧
      (∀ base text cause, refusedAtLoad p base text ≠ some (.reservedEncoding w cause)) ∧
      ∀ base before, refusedAtLoad p base before = none → refusedAtLoad p base (before ++ [w]) = none) ∧
    (opclass = 15 → p.uopClassFetchable = false → decode p w = .error .uopNotFetchable ∧
      fetched (.refused (.reservedEncoding w .uopNotFetchable)) ∧ refusesAText .uopNotFetchable) ∧
    ((opclass = 15 → p.uopClassFetchable = true) → subop ∈ free → decode p w = .error .unassignedSubop ∧
      fetched (.fault (.reservedEncoding w .unassignedSubop)) ∧ refusesAText .unassignedSubop)

/-- The `reserved_mask` column of `opcode_table.json` (R76). -/
def Sys2Proof.reservedMask : Instr → Word
  | .nop | .btp | .ret | .srhlt => 0x00FFFF
  | .movur _ _ | .addur _ _ | .subur _ _ | .andur _ _ | .orur _ _ | .xorur _ _ | .shlur _ _ | .rolur _ _ | .shrur _ _
  | .rorur _ _ | .cmpur _ _ | .addsr _ _ | .subsr _ _ | .shrsr _ _ | .cmpsr _ _ | .bccsr _ _ => 0x0000FF
  | .mccur _ _ _ => 0x00000F
  | .notur _ | .tstur _ | .negsr _ | .tstsr _ | .bsrsr _ | .cmpaur _ _ | .pushaur _ _ | .popaur _ _ | .srmovur _ _
  | .srmovaur _ _ => 0x000FFF
  | .luiui _ _ | .stui _ _ | .addasi _ _ | .subasi _ _ => 0x003000
  | .shlui _ _ | .rolui _ _ | .shrui _ _ | .rorui _ _ | .shrsi _ _ => 0x000FE0
  | .ldur _ _ | .stur _ _ | .addaur _ _ | .subaur _ _ | .addasr _ _ | .subasr _ _ | .jccur _ _ | .pushur _ _
  | .popur _ _ => 0x0003FF
  | .movaur _ _ _ | .movdur _ _ _ => 0x0001FF
  | .tstaur _ | .jsrur _ | .setssp _ => 0x003FFF
  | .jsrui _ | .swi _ => 0x00F000
  | .csrrd _ _ => 0x000F00
  | .csrwr _ _ => 0x00C300
  | .movui _ _ | .addui _ _ | .subui _ _ | .andui _ _ | .orui _ _ | .xorui _ _ | .cmpui _ _ | .movsi _ _
  | .mccsi _ _ _ | .addsi _ _ | .subsi _ _ | .cmpsi _ _ | .stsi _ _ | .ldso _ _ _ | .stso _ _ _ | .ldaso _ _ _
  | .staso _ _ _ | .leaso _ _ _ | .adraso _ _ | .jccui _ _ | .bccso _ _ | .balso _ | .bsrso _ | .srjccso _ _ _
  | .sraddsi _ _ | .srsubsi _ _ | .srstso _ _ _ | .srldso _ _ _ => 0

/-- R76 (D17): a word with a RESERVED bit set is `ReservedEncoding` with `RESERVED_BITS_STRICT`, and is read as if
the bit were zero without it. A program text that holds it is refused at load with both ("should still be refused"; that
the parameter does not reach the check at load is log entry 7). -/
def Obligations.ReservedBitsDecideByTheParameter : Prop :=
  ∀ (p : Params) (i : Instr) (junk : Word), i.wellFormed p = true → (isUop i = true → p.uopClassFetchable = true) →
    (p.reservedBitsStrict = false → decode p (encode i ||| (junk &&& reservedMask i)) = .ok i) ∧
    (p.reservedBitsStrict = true → junk &&& reservedMask i ≠ 0 →
      decode p (encode i ||| (junk &&& reservedMask i)) = .error .reservedBits) ∧
    (junk &&& reservedMask i ≠ 0 → ∀ (base : Addr) (before after : List Word), refusedAtLoad p base before = none →
      refusedAtLoad p base (before ++ (encode i ||| (junk &&& reservedMask i)) :: after) =
        some (.reservedEncoding (encode i ||| (junk &&& reservedMask i)) .reservedBits))

/-! ## Opclasses 0000 to 0011 -/

/-- R102, R106 to R109: MOVur, NOTur, ANDur, ORur and XORur write DRt and `Z` and nothing else, for all operands,
DRt = DRs among them. The words are the rules' own. That `Z` says whether the result is zero is the spec's decision
D11 (R29, log entry 17), and the reading of "~=" as the complement is R106's. -/
def Obligations.MovesAndLogicWriteTargetAndZ : Prop :=
  ∀ (p : Params) (t u : BitVec 4) (s : State),
    decode p (0x010000 ||| Laws.placed t 12 ||| Laws.placed u 8) = .ok (.movur t u) ∧
    decode p (0x050000 ||| Laws.placed t 12) = .ok (.notur t) ∧
    decode p (0x060000 ||| Laws.placed t 12 ||| Laws.placed u 8) = .ok (.andur t u) ∧
    decode p (0x070000 ||| Laws.placed t 12 ||| Laws.placed u 8) = .ok (.orur t u) ∧
    decode p (0x080000 ||| Laws.placed t 12 ||| Laws.placed u 8) = .ok (.xorur t u) ∧
    Runs (.movur t u) s (WritesZ t (s.getDr u) s) ∧
    Runs (.notur t) s (WritesZ t (BitVec.ofNat 24 (2 ^ 24 - 1 - (s.getDr t).toNat)) s) ∧
    Runs (.andur t u) s (WritesZ t (s.getDr t &&& s.getDr u) s) ∧
    Runs (.orur t u) s (WritesZ t (s.getDr t ||| s.getDr u) s) ∧
    Runs (.xorur t u) s (WritesZ t (s.getDr t ^^^ s.getDr u) s)

/-- R104, R105, R30: ADDur and SUBur write DRt modulo 2^24, `Z`, and in `C` the carry of the sum or the borrow of the
difference (borrow = 1 is the spec's decision D11). -/
def Obligations.UnsignedSumsWriteCarryAndBorrow : Prop :=
  ∀ (t u : BitVec 4) (s : State),
    Runs (.addur t u) s (WritesZC t (BitVec.ofNat 24 ((s.getDr t).toNat + (s.getDr u).toNat))
      (2 ^ 24 ≤ (s.getDr t).toNat + (s.getDr u).toNat) s) ∧
    Runs (.subur t u) s (WritesZC t (BitVec.ofInt 24 ((s.getDr t).toNat - (s.getDr u).toNat : Int))
      ((s.getDr t).toNat < (s.getDr u).toNat) s)

/-- R114, R115, R32: CMPur and TSTur write flags only; after CMPur, `Z` says equal and `C` says DRt is below DRs
(target minus source is the spec's decision D12). -/
def Obligations.UnsignedComparesWriteFlagsOnly : Prop :=
  ∀ (t u : BitVec 4) (s : State),
    Runs (.cmpur t u) s (fun s' => (s'.flags.z = true ↔ s.getDr t = s.getDr u) ∧
      (s'.flags.c = true ↔ (s.getDr t).toNat < (s.getDr u).toNat) ∧ Advances s s' ∧ Frame [.z, .c] s s') ∧
    Runs (.tstur t) s (fun s' => (s'.flags.z = true ↔ s.getDr t = 0) ∧ Advances s s' ∧ Frame [.z] s s')

/-- R101, R201, R85: NOP and BTP change nothing but PC (and end a run of LUIui). -/
def Obligations.NopAndPadOnlyAdvance : Prop :=
  ∀ s : State, Runs .nop s (WritesNothing s) ∧ Runs .btp s (WritesNothing s)

/-- R103, R148: a conditional move happens, with `{Z}` only, when the condition holds on the flags before; writes
nothing when it does not; and is `Undefined(CondReserved)` where the table gives the code no meaning, for which a program
text that holds it is refused at load too (R43, U8; log entry 31). -/
def Obligations.ConditionalMovesMoveOrNot : Prop :=
  ∀ (t u cc : BitVec 4) (imm : BitVec 8) (s : State),
    (ccHolds s.params cc s.flags = some true →
      Runs (.mccur t u cc) s (WritesZ t (s.getDr u) s) ∧
      Runs (.mccsi t cc imm) s (WritesZ t (BitVec.ofInt 24 imm.toInt) s)) ∧
    (ccHolds s.params cc s.flags = some false →
      Runs (.mccur t u cc) s (WritesNothing s) ∧ Runs (.mccsi t cc imm) s (WritesNothing s)) ∧
    (ccHolds s.params cc s.flags = none →
      exec (.mccur t u cc) s = .refused (.condReserved cc) ∧ exec (.mccsi t cc imm) s = .refused (.condReserved cc) ∧
      ∀ (base : Addr) (before after : List Word), refusedAtLoad s.params base before = none →
        refusedAtLoad s.params base (before ++ encode (.mccur t u cc) :: after) = some (.condReserved cc) ∧
        refusedAtLoad s.params base (before ++ encode (.mccsi t cc imm) :: after) = some (.condReserved cc))

/-- R33, R110, R112, R128, R130 (D13, D14): the left and the unsigned right shifts, by the count `DRs mod 32` or
imm5. A zero count writes nothing; else the result is `v * 2^n` or `v / 2^n` modulo 2^24 and `C` is the last bit
shifted out, for the counts 24 to 31 too. -/
def Obligations.ShiftsMultiplyAndDivide : Prop :=
  ∀ (t u : BitVec 4) (imm : BitVec 5) (s : State),
    let v := (s.getDr t).toNat
    let left (n : Nat) := WritesZC t (BitVec.ofNat 24 (v * 2 ^ n)) (v * 2 ^ n / 2 ^ 24 % 2 = 1) s
    let right (n : Nat) := WritesZC t (BitVec.ofNat 24 (v / 2 ^ n)) (v / 2 ^ (n - 1) % 2 = 1) s
    ((s.getDr u).toNat % 32 = 0 → Runs (.shlur t u) s (WritesNothing s) ∧ Runs (.shrur t u) s (WritesNothing s)) ∧
    ((s.getDr u).toNat % 32 ≠ 0 → Runs (.shlur t u) s (left ((s.getDr u).toNat % 32)) ∧
      Runs (.shrur t u) s (right ((s.getDr u).toNat % 32))) ∧
    (imm = 0 → Runs (.shlui t imm) s (WritesNothing s) ∧ Runs (.shrui t imm) s (WritesNothing s)) ∧
    (imm ≠ 0 → Runs (.shlui t imm) s (left imm.toNat) ∧ Runs (.shrui t imm) s (right imm.toNat))

/-- The rotation of `v` by `n`, said bit by bit: bit `j` of the result is bit `from j` of `v`, `C` is bit `carry` of
the result (R34). -/
def Sys2Proof.Machine.Rotates (t : BitVec 4) (src : Nat → Nat) (carry : Nat) (s s' : State) : Prop :=
  (∀ j : Nat, j < 24 → (s'.getDr t).getLsbD j = (s.getDr t).getLsbD (src j)) ∧
  (s'.flags.z = true ↔ s.getDr t = 0) ∧ s'.flags.c = (s'.getDr t).getLsbD carry ∧ Advances s s' ∧
  Frame [.dr t, .z, .c] s s'

/-- R34, R111, R113, R129, R131 (D13): the rotations move bit `j - n`, or bit `j + n`, modulo 24, to bit `j`; `C` is
bit 0, or bit 23, of the result; a count of 24 still writes the flags and a zero count writes nothing. -/
def Obligations.RotationsMoveBitsRound : Prop :=
  ∀ (t u : BitVec 4) (imm : BitVec 5) (s : State),
    let left (n : Nat) := Rotates t (fun j => (j + 48 - n) % 24) 0 s
    let right (n : Nat) := Rotates t (fun j => (j + n) % 24) 23 s
    ((s.getDr u).toNat % 32 = 0 → Runs (.rolur t u) s (WritesNothing s) ∧ Runs (.rorur t u) s (WritesNothing s)) ∧
    ((s.getDr u).toNat % 32 ≠ 0 → Runs (.rolur t u) s (left ((s.getDr u).toNat % 32)) ∧
      Runs (.rorur t u) s (right ((s.getDr u).toNat % 32))) ∧
    (imm = 0 → Runs (.rolui t imm) s (WritesNothing s) ∧ Runs (.rorui t imm) s (WritesNothing s)) ∧
    (imm ≠ 0 → Runs (.rolui t imm) s (left imm.toNat) ∧ Runs (.rorui t imm) s (right imm.toNat))

/-- R33, R144, R151 (D13): the arithmetic right shift divides the signed value by 2^n toward minus infinity, with
`{Z, N, C}`, `C` being bit `n - 1` of the sign-extended value; a zero count writes nothing. -/
def Obligations.ArithmeticShiftsDivideSigned : Prop :=
  ∀ (t u : BitVec 4) (imm : BitVec 5) (s : State),
    let v := (s.getDr t).toInt
    let right (n : Nat) := WritesZNC t (v / 2 ^ n) (v / 2 ^ (n - 1) % 2 = 1) s
    ((s.getDr u).toNat % 32 = 0 → Runs (.shrsr t u) s (WritesNothing s)) ∧
    ((s.getDr u).toNat % 32 ≠ 0 → Runs (.shrsr t u) s (right ((s.getDr u).toNat % 32))) ∧
    (imm = 0 → Runs (.shrsi t imm) s (WritesNothing s)) ∧
    (imm ≠ 0 → Runs (.shrsi t imm) s (right imm.toNat))

/-- R121, R35, R36 (D16): LUIui writes one bank and its `loaded` bit, keeps the other banks and bits, and goes on at
the next cell; x = 3 is `ReservedEncoding`. -/
def Obligations.LuiLoadsOneBank : Prop :=
  ∀ (x : BitVec 2) (imm : BitVec 12) (s : State),
    (∀ k : Fin 3, k.val = x.toNat →
      Runs (.luiui x imm) s (fun t => t.bank[k] = imm ∧ t.loaded[k] = true ∧
        (∀ j : Fin 3, j ≠ k → t.loaded[j] = s.loaded[j]) ∧ t.pc = s.pc + 1 ∧ Frame [.bank k] s t)) ∧
    (x = 3 → exec (.luiui x imm) s = .refused (.reservedEncoding (encode (.luiui x imm)) .noSuchBank))

/-- R120 (b), R122 to R127, R132: with bank 0 loaded, the seven `[OPC]ui` forms act on `K`, the bank above the 12 bits
of the instruction, as the register forms do on DRs. The flags (carry, borrow = 1) are the spec's decision D11, the
order of the compare D12 (log entry 17), and that the bank must be loaded is D15 (log entry 19). -/
def Obligations.UpperImmediateFormsUseTheBank : Prop :=
  ∀ (t : BitVec 4) (imm : BitVec 12) (s : State), s.loaded[0] = true →
    let k : Word := BitVec.ofNat 24 (s.bank[0].toNat * 2 ^ 12 + imm.toNat)
    Runs (.movui t imm) s (WritesZ t k s) ∧
    Runs (.addui t imm) s (WritesZC t (BitVec.ofNat 24 ((s.getDr t).toNat + k.toNat))
      (2 ^ 24 ≤ (s.getDr t).toNat + k.toNat) s) ∧
    Runs (.subui t imm) s (WritesZC t (BitVec.ofInt 24 ((s.getDr t).toNat - k.toNat : Int))
      ((s.getDr t).toNat < k.toNat) s) ∧
    Runs (.andui t imm) s (WritesZ t (s.getDr t &&& k) s) ∧
    Runs (.orui t imm) s (WritesZ t (s.getDr t ||| k) s) ∧
    Runs (.xorui t imm) s (WritesZ t (s.getDr t ^^^ k) s) ∧
    Runs (.cmpui t imm) s (fun s' => (s'.flags.z = true ↔ s.getDr t = k) ∧
      (s'.flags.c = true ↔ (s.getDr t).toNat < k.toNat) ∧ Advances s s' ∧ Frame [.z, .c] s s')

/-- R36, R120, R203 (D15, D36): an instruction that reads a bank that is not loaded is `Undefined(UimmNotLoaded)`,
whatever else holds; no other instruction ends so. R310, U1: a program text is refused at load at a consumer of `uimm`
whose own run of LUIui, the unbroken one just before it, leaves out a bank it reads; and in a text that is accepted, reset
and every branch whose target is in the text miss the words of a run of LUIui and its consumer, but for the first. What
the check covers is log entry 31. -/
def Obligations.UnloadedBankIsUndefined : Prop :=
  (∀ (i : Instr) (s : State), exec i s = .fault .uimmNotLoaded ↔ s.banksLoaded (banksRead i) = false) ∧
  ∀ (p : Params) (base : Addr) (before after : List Word) (luis : List (BitVec 2 × Bank)) (i : Instr),
    banksRead i ≠ [] → (∀ l ∈ luis, l.1 ≠ 3) →
    let text := before ++ luiWords luis ++ encode i :: after
    let consumer := before.length + luis.length
    (refusedAtLoad p base before = none → EndsInNoLui before →
      (∃ b ∈ banksRead i, ∀ l ∈ luis, l.1.toNat ≠ b.val) →
      refusedAtLoad p base text = some (.luiRunMissing (wordAddr base consumer))) ∧
    (refusedAtLoad p base text = none → ∀ k, before.length < k → k ≤ consumer →
      p.resetPc ≠ wordAddr base k ∧
      (∀ j cc imm, text[j]? = some (encode (.bccso cc imm)) →
        wordAddr base j + BitVec.ofInt 48 imm.toInt ≠ wordAddr base k) ∧
      (∀ j imm, text[j]? = some (encode (.balso imm)) ∨ text[j]? = some (encode (.bsrso imm)) →
        wordAddr base j + BitVec.ofInt 48 imm.toInt ≠ wordAddr base k) ∧
      (∀ (a : Addr) (last : BitVec 12 → Instr), last = .jsrui ∨ last = .swi ∨ (∃ cc, last = .jccui cc) →
        (splitImm48 a last).map encode <:+: text → a ≠ wordAddr base k))

/-- R36, R40 step 5: the completion of any instruction but LUIui (and SRHLT, after which no step follows: log entry
15) leaves no bank loaded. The `loaded` bits and their lifetime are the spec's decision D15 (log entry 19). -/
def Obligations.OnlyLuiLeavesBanksLoaded : Prop :=
  ∀ (i : Instr) (s t : State), exec i s = .next t → i ≠ .srhlt → (∀ x imm, i ≠ .luiui x imm) →
    ∀ k : Fin 3, t.loaded[k] = false

/-- R141, R142, R143, R149, R150, R31 (D11): the signed sums and differences write the exact result modulo 2^24, `Z`,
`N`, and in `V` whether the exact result is out of range, `C` kept. -/
def Obligations.SignedSumsWriteOverflow : Prop :=
  ∀ (t u : BitVec 4) (imm : BitVec 12) (s : State),
    Runs (.addsr t u) s (WritesZNV t ((s.getDr t).toInt + (s.getDr u).toInt) s) ∧
    Runs (.subsr t u) s (WritesZNV t ((s.getDr t).toInt - (s.getDr u).toInt) s) ∧
    Runs (.negsr t) s (WritesZNV t (-(s.getDr t).toInt) s) ∧
    Runs (.addsi t imm) s (WritesZNV t ((s.getDr t).toInt + imm.toInt) s) ∧
    Runs (.subsi t imm) s (WritesZNV t ((s.getDr t).toInt - imm.toInt) s)

/-- R145, R146, R152, R31, R32 (D11, D12): CMPsr and CMPsi write `{Z, N, V}` only, so that `Z` says equal and
`N ≠ V` says DRt is below the source, signed; TSTsr writes `{Z, N}` of DRt. -/
def Obligations.SignedComparesOrderTheOperands : Prop :=
  ∀ (t u : BitVec 4) (imm : BitVec 12) (s : State),
    let a := (s.getDr t).toInt
    let compares (b : Int) (s' : State) := (s'.flags.z = true ↔ a = b) ∧ (s'.flags.n ≠ s'.flags.v ↔ a < b) ∧
      (s'.flags.v = true ↔ a - b < -2 ^ 23 ∨ 2 ^ 23 ≤ a - b) ∧ Advances s s' ∧ Frame [.z, .n, .v] s s'
    Runs (.cmpsr t u) s (compares (s.getDr u).toInt) ∧
    Runs (.cmpsi t imm) s (compares imm.toInt) ∧
    Runs (.tstsr t) s (fun s' => (s'.flags.z = true ↔ a = 0) ∧ (s'.flags.n = true ↔ a < 0) ∧ Advances s s' ∧
      Frame [.z, .n] s s')

/-- R147: MOVsi writes the sign-extended immediate with `{Z, N}`, whether or not a bank is loaded; its word is the
rule's own. What `Z` and `N` say of the result is the spec's decision D11 (R29, R31, log entry 17). -/
def Obligations.SignedMoveExtends : Prop :=
  ∀ (p : Params) (t : BitVec 4) (imm : BitVec 12) (s : State),
    decode p (0x300000 ||| Laws.placed t 12 ||| Laws.placed imm 0) = .ok (.movsi t imm) ∧
    Runs (.movsi t imm) s (WritesZN t (BitVec.ofInt 24 imm.toInt) s)

/-! ## Opclasses 0100, 0101 and 0110 -/

/-- R161, R165, R57, R58: LDur and LDso load the cell at ARs, or at ARs + sext(imm10) modulo 2^48, write no flag, and
end in `NoMemory` where the platform rejects the read. A cell that holds no value is the model's stop (log entry
13). -/
def Obligations.LoadsReadOneCell : Prop :=
  ∀ (t : BitVec 4) (b : BitVec 2) (imm : BitVec 10) (s : State),
    let loads (i : Instr) (a : Addr) :=
      (∀ v, memAdmits s.params a .read = true → s.cell a = some v →
        Runs i s (fun s' => s'.getDr t = v ∧ Advances s s' ∧ Frame [.dr t] s s')) ∧
      (memAdmits s.params a .read = false → exec i s = .fault (.noMemory a)) ∧
      (memAdmits s.params a .read = true → s.cell a = none → exec i s = .fault (.unwrittenMemory a))
    loads (.ldur t b) (s.getAr b) ∧ loads (.ldso t b imm) (s.getAr b + BitVec.ofInt 48 imm.toInt)

/-- R162, R163, R164, R166, R57, R58: STur, STso, STsi and STui replace the one cell at ARt, or at ARt + sext(imm10),
and change no other cell, register or flag; they end in `NoMemory` where the platform rejects the write. The word of
STso is its rule's own. Which cells the platform rejects is the open parameter D30 (log entry 4), that STui needs bank
0 loaded is D15 (log entry 19), and the sum modulo 2^48 D32 (log entry 27). -/
def Obligations.StoresWriteOneCell : Prop :=
  ∀ (p : Params) (b : BitVec 2) (u : BitVec 4) (i10 : BitVec 10) (i12 : BitVec 12) (i14 : BitVec 14) (s : State),
    let stores (i : Instr) (a : Addr) (v : Word) :=
      (memAdmits s.params a .write = true →
        Runs i s (fun s' => s'.cell a = some v ∧ Advances s s' ∧ Frame (storedAt a) s s')) ∧
      (memAdmits s.params a .write = false → exec i s = .fault (.noMemory a))
    decode p (0x510000 ||| Laws.placed b 14 ||| Laws.placed u 10 ||| Laws.placed i10 0) = .ok (.stso b u i10) ∧
    stores (.stur b u) (s.getAr b) (s.getDr u) ∧
    stores (.stso b u i10) (s.getAr b + BitVec.ofInt 48 i10.toInt) (s.getDr u) ∧
    stores (.stsi b i14) (s.getAr b) (BitVec.ofInt 24 i14.toInt) ∧
    (s.loaded[0] = true →
      stores (.stui b i12) (s.getAr b) (BitVec.ofNat 24 (s.bank[0].toNat * 2 ^ 12 + i12.toNat)))

/-- R167, R168, R53, R55 (D6, D7): LDAso and STAso move a 48-bit value through the cells at the address and at the
address plus 1, modulo 2^48, in the order `WIDE_LOW_FIRST` says, at any alignment, ARt = ARs included. They end in
`NoMemory` of the first cell the platform rejects (R58, D30, log entry 4), first cell before second (R56); a cell read
that holds no value is the model's stop (log entry 13). -/
def Obligations.AddressRegistersUseTwoCells : Prop :=
  ∀ (t u : BitVec 2) (imm : BitVec 12) (s : State),
    let source := s.getAr u + BitVec.ofInt 48 imm.toInt
    let target := s.getAr t + BitVec.ofInt 48 imm.toInt
    (∀ v, admitsWide s.params source .read → s.holdsWide source v →
      Runs (.ldaso t u imm) s (fun s' => s'.getAr t = v ∧ Advances s s' ∧ Frame [.ar t] s s')) ∧
    (admitsWide s.params target .write →
      Runs (.staso t u imm) s (fun s' => s'.holdsWide target (s.getAr u) ∧ Advances s s' ∧
        Frame (storedWideAt target) s s')) ∧
    StopsAtWideRead (exec (.ldaso t u imm) s) s source ∧
    StopsAtWideWrite (exec (.staso t u imm) s) s target

/-- R181, R182: MOVAur replaces one half of ARt and keeps the other; MOVDur copies a half to DRt with `Z` of that
half. The words are the rules' own. -/
def Obligations.HalvesMoveBetweenTheFiles : Prop :=
  ∀ (p : Params) (t : BitVec 2) (d : BitVec 4) (s : State),
    decode p (0x610000 ||| Laws.placed t 14 ||| Laws.placed d 10) = .ok (.movaur t d .low) ∧
    decode p (0x610200 ||| Laws.placed t 14 ||| Laws.placed d 10) = .ok (.movaur t d .high) ∧
    decode p (0x620000 ||| Laws.placed d 12 ||| Laws.placed t 10) = .ok (.movdur d t .low) ∧
    decode p (0x620200 ||| Laws.placed d 12 ||| Laws.placed t 10) = .ok (.movdur d t .high) ∧
    Runs (.movaur t d .low) s (fun s' => (s'.getAr t).toNat =
        (s.getAr t).toNat / 2 ^ 24 * 2 ^ 24 + (s.getDr d).toNat ∧ Advances s s' ∧ Frame [.ar t] s s') ∧
    Runs (.movaur t d .high) s (fun s' => (s'.getAr t).toNat =
        (s.getDr d).toNat * 2 ^ 24 + (s.getAr t).toNat % 2 ^ 24 ∧ Advances s s' ∧ Frame [.ar t] s s') ∧
    Runs (.movdur d t .low) s (WritesZ d (BitVec.ofNat 24 ((s.getAr t).toNat % 2 ^ 24)) s) ∧
    Runs (.movdur d t .high) s (WritesZ d (BitVec.ofNat 24 ((s.getAr t).toNat / 2 ^ 24)) s)

/-- R181: MOVAur writes the half of ARt its selector names ("H=1, L=0") and keeps the other half and every other place;
so two of them, in either order, set the whole register to the two data registers. The word is the rule's own. -/
def Obligations.TwoHalfMovesSetTheWholeRegister : Prop :=
  ∀ (p : Params) (t : BitVec 2) (d e : BitVec 4) (half : Half) (s : State),
    let whole (s' : State) := s'.getAr t = s.getDr e ++ s.getDr d ∧ Frame [.ar t] s s'
    decode p (0x610000 ||| Laws.placed t 14 ||| Laws.placed d 10 ||| Laws.placed (halfBit half) 9) =
      .ok (.movaur t d half) ∧
    Runs (.movaur t d half) s (fun s' => Frame [.ar t] s s' ∧
      s'.getAr t = match half with
        | .low => (s.getAr t).extractLsb' 24 24 ++ s.getDr d
        | .high => s.getDr d ++ (s.getAr t).extractLsb' 0 24) ∧
    RunsAll [.movaur t d .low, .movaur t e .high] s whole ∧
    RunsAll [.movaur t e .high, .movaur t d .low] s whole

/-- R183 to R189: the address arithmetic adds or subtracts the zero-extended or sign-extended operand modulo 2^48 and
writes no flag; the words are the rules' own (bits [13:12] of ADDAsi and SUBAsi zero). -/
def Obligations.AddressArithmeticExtendsAndWraps : Prop :=
  ∀ (p : Params) (t b : BitVec 2) (u : BitVec 4) (imm : BitVec 12) (s : State),
    let ends (r : Int) (s' : State) := s'.getAr t = BitVec.ofInt 48 r ∧ Advances s s' ∧ Frame [.ar t] s s'
    let a : Int := (s.getAr t).toNat
    let du : Int := (s.getDr u).toNat
    (decode p (0x630000 ||| Laws.placed t 14 ||| Laws.placed u 10) = .ok (.addaur t u) ∧
      decode p (0x640000 ||| Laws.placed t 14 ||| Laws.placed u 10) = .ok (.subaur t u) ∧
      decode p (0x650000 ||| Laws.placed t 14 ||| Laws.placed u 10) = .ok (.addasr t u) ∧
      decode p (0x660000 ||| Laws.placed t 14 ||| Laws.placed u 10) = .ok (.subasr t u) ∧
      decode p (0x670000 ||| Laws.placed t 14 ||| Laws.placed imm 0) = .ok (.addasi t imm) ∧
      decode p (0x680000 ||| Laws.placed t 14 ||| Laws.placed imm 0) = .ok (.subasi t imm) ∧
      decode p (0x690000 ||| Laws.placed t 14 ||| Laws.placed b 12 ||| Laws.placed imm 0) = .ok (.leaso t b imm)) ∧
    Runs (.addaur t u) s (ends (a + du)) ∧
    Runs (.subaur t u) s (ends (a - du)) ∧
    Runs (.addasr t u) s (ends (a + (s.getDr u).toInt)) ∧
    Runs (.subasr t u) s (ends (a - (s.getDr u).toInt)) ∧
    Runs (.addasi t imm) s (ends (a + imm.toInt)) ∧
    Runs (.subasi t imm) s (ends (a - imm.toInt)) ∧
    Runs (.leaso t b imm) s (ends ((s.getAr b).toNat + imm.toInt))

/-- R190, R191, R192 (D31, D12): ADRAso gives the instruction's own address plus the offset; CMPAur and TSTAur write
flags only, from all 48 bits. -/
def Obligations.AddressComparesUseAllBits : Prop :=
  ∀ (t b : BitVec 2) (imm : BitVec 14) (s : State),
    Runs (.adraso t imm) s (fun s' => s'.getAr t = BitVec.ofInt 48 (s.pc.toNat + imm.toInt) ∧ Advances s s' ∧
      Frame [.ar t] s s') ∧
    Runs (.cmpaur t b) s (fun s' => (s'.flags.z = true ↔ s.getAr t = s.getAr b) ∧
      (s'.flags.c = true ↔ (s.getAr t).toNat < (s.getAr b).toNat) ∧ Advances s s' ∧ Frame [.z, .c] s s') ∧
    Runs (.tstaur t) s (fun s' => (s'.flags.z = true ↔ s.getAr t = 0) ∧ Advances s s' ∧ Frame [.z] s s')

/-! ## Opclasses 0111 and 1000 -/

/-- R206, R200 (b): BALso always goes to its own address plus the displacement, modulo 2^48, and changes nothing else;
its word is the rule's own. That the base is the branch's own address is the spec's decision D31 (log entry 20). -/
def Obligations.BranchAlwaysIsTaken : Prop :=
  ∀ (p : Params) (imm : BitVec 16) (s : State),
    decode p (0x750000 ||| Laws.placed imm 0) = .ok (.balso imm) ∧
    Runs (.balso imm) s (fun t => Continues (BitVec.ofInt 48 (s.pc.toNat + imm.toInt)) t ∧ Frame [] s t)

/-- R200, R202 to R205 (D31): a conditional transfer goes to ARt, to the banks' address, or to the instruction's own
address plus the displacement, when the condition holds; else on to the next cell; a code without a meaning is
`Undefined(CondReserved)`. JCCui needs its banks loaded. Nothing else changes. -/
def Obligations.TransfersGoToTheirTargets : Prop :=
  ∀ (t : BitVec 2) (d cc : BitVec 4) (i12 : BitVec 12) (s : State),
    let goes (i : Instr) (a : Addr) :=
      (ccHolds s.params cc s.flags = some true → Runs i s (fun s' => Continues a s' ∧ Frame [] s s')) ∧
      (ccHolds s.params cc s.flags = some false → Runs i s (WritesNothing s)) ∧
      (ccHolds s.params cc s.flags = none → exec i s = .refused (.condReserved cc))
    goes (.jccur t cc) (s.getAr t) ∧
    (s.banksLoaded [0, 1, 2] = true → goes (.jccui cc i12) (BitVec.ofNat 48 (s.bank[2].toNat * 2 ^ 36 +
      s.bank[1].toNat * 2 ^ 24 + s.bank[0].toNat * 2 ^ 12 + i12.toNat))) ∧
    goes (.bccsr d cc) (BitVec.ofInt 48 (s.pc.toNat + (s.getDr d).toInt)) ∧
    goes (.bccso cc i12) (BitVec.ofInt 48 (s.pc.toNat + i12.toInt))

/-- R207 to R210, R212, R24: a call moves SSP down by 2, stores the old LR in the two cells there, leaves its own
address in LR and goes to its target, changing nothing else. Where the platform rejects one of the two cells it ends in
`NoMemory` of the first one rejected (R200 (f), R58, D30, log entry 4); JSRui needs its banks (D15, log entry 19). That
LR gets the call's own address, which is also the base of BSRsr and BSRso, is the spec's decision D8 and D31 and the
reading of its conflict C2 (log entries 20 and 21); the order of the halves is D6. -/
def Obligations.CallsLinkAndTransfer : Prop :=
  ∀ (t : BitVec 2) (d : BitVec 4) (i12 : BitVec 12) (i16 : BitVec 16) (s : State),
    let calls (i : Instr) (a : Addr) :=
      (admitsWide s.params (s.ssp - 2) .write → Runs i s (Links a s)) ∧
      StopsAtWideWrite (exec i s) s (s.ssp - 2)
    calls (.jsrur t) (s.getAr t) ∧
    (s.banksLoaded [0, 1, 2] = true → calls (.jsrui i12) (BitVec.ofNat 48 (s.bank[2].toNat * 2 ^ 36 +
      s.bank[1].toNat * 2 ^ 24 + s.bank[0].toNat * 2 ^ 12 + i12.toNat))) ∧
    calls (.bsrsr d) (BitVec.ofInt 48 (s.pc.toNat + (s.getDr d).toInt)) ∧
    calls (.bsrso i16) (BitVec.ofInt 48 (s.pc.toNat + i16.toInt))

/-- R211 (D28): RET pops the two cells at SSP into LR, moves SSP up by 2 and goes on at the popped value plus 1. Where
the platform rejects one of the two cells it ends in `NoMemory` of the first one rejected (R200 (f), R58, D30, log entry
4); a cell that holds no value is the model's stop (log entry 13). -/
def Obligations.RetPopsAndContinuesAfter : Prop :=
  ∀ s : State,
    (∀ v, admitsWide s.params s.ssp .read → s.holdsWide s.ssp v →
      Runs .ret s (fun t => t.lr = v ∧ t.ssp = s.ssp + 2 ∧ Continues (v + 1) t ∧ Frame [.lr, .ssp] s t)) ∧
    StopsAtWideRead (exec .ret s) s s.ssp

/-- R213 (D28, conflict C1; D8 and D31 for the address in LR; log entries 20 and 21): a call that finds LR = `L0`, and a
RET executed next, give LR = `L0` and PC = `L0 + 1`, not the address after the call; with nested calls the RET in the
inner routine continues after the outer call, and a second RET at `L0 + 1`. The platform must admit the reads of the
cells the calls stored to, and may reject any other. -/
def Obligations.RetAfterCallGoesOneLevelOut : Prop :=
  ∀ (c1 c2 : Instr) (s0 s1 s2 : State), isCall c1 = true → isCall c2 = true →
    admitsWide s0.params (s0.ssp - 2) .read → exec c1 s0 = .next s1 →
    Runs .ret s1 (fun t => t.lr = s0.lr ∧ t.pc = s0.lr + 1 ∧ t.ssp = s0.ssp) ∧
    (admitsWide s0.params (s0.ssp - 4) .read → exec c2 s1 = .next s2 →
      Runs .ret s2 (fun t => t.lr = s0.pc ∧ t.pc = s0.pc + 1 ∧
        Runs .ret t (fun t' => t'.lr = s0.lr ∧ t'.pc = s0.lr + 1 ∧ t'.ssp = s0.ssp)))

/-- R221, R222, R220: a push moves the pointer down by 1 or 2 and stores at the new pointer; PUSHAur of the pointer
itself stores the pointer already moved. Where the platform rejects a cell there it ends in `NoMemory` of the first one
rejected (R58, D30, log entry 4); the order of the halves is D6. -/
def Obligations.PushesStoreBelowThePointer : Prop :=
  ∀ (t b : BitVec 2) (u : BitVec 4) (s : State),
    (memAdmits s.params (s.getAr t - 1) .write = true →
      Runs (.pushur t u) s (fun s' => s'.getAr t = s.getAr t - 1 ∧ s'.cell (s.getAr t - 1) = some (s.getDr u) ∧
        Advances s s' ∧ Frame (.ar t :: storedAt (s.getAr t - 1)) s s')) ∧
    (admitsWide s.params (s.getAr t - 2) .write →
      Runs (.pushaur t b) s (fun s' => s'.getAr t = s.getAr t - 2 ∧
        s'.holdsWide (s.getAr t - 2) (if b = t then s.getAr t - 2 else s.getAr b) ∧
        Advances s s' ∧ Frame (.ar t :: storedWideAt (s.getAr t - 2)) s s')) ∧
    StopsAtWrite (exec (.pushur t u) s) s (s.getAr t - 1) ∧
    StopsAtWideWrite (exec (.pushaur t b) s) s (s.getAr t - 2)

/-- R223, R224, R220: a pop loads from the old pointer and moves the pointer up by 1 or 2; POPAur into the pointer
itself ends with the popped value. No flag is written. Where the platform rejects a cell there it ends in `NoMemory` of
the first one rejected (R58, D30, log entry 4); a cell that holds no value is the model's stop (log entry 13). -/
def Obligations.PopsLoadFromTheOldPointer : Prop :=
  ∀ (d : BitVec 4) (t b : BitVec 2) (s : State),
    (∀ v, memAdmits s.params (s.getAr b) .read = true → s.cell (s.getAr b) = some v →
      Runs (.popur d b) s (fun s' => s'.getDr d = v ∧ s'.getAr b = s.getAr b + 1 ∧ Advances s s' ∧
        Frame [.dr d, .ar b] s s')) ∧
    (∀ v, admitsWide s.params (s.getAr b) .read → s.holdsWide (s.getAr b) v →
      Runs (.popaur t b) s (fun s' => s'.getAr t = v ∧ (t ≠ b → s'.getAr b = s.getAr b + 2) ∧ Advances s s' ∧
        Frame [.ar t, .ar b] s s')) ∧
    StopsAtRead (exec (.popur d b) s) s (s.getAr b) ∧
    StopsAtWideRead (exec (.popaur t b) s) s (s.getAr b)

/-- R220 to R224: what a push stored, a pop through the same pointer gives back, and the pointer is where it was,
for both sizes, either order of the halves and every pointer value. -/
def Obligations.PopUndoesPush : Prop :=
  ∀ (u d : BitVec 4) (t b c : BitVec 2) (s s1 : State), (∀ a, memAdmits s.params a .read = true) →
    (exec (.pushur t u) s = .next s1 →
      Runs (.popur d t) s1 (fun s2 => s2.getDr d = s.getDr u ∧ s2.getAr t = s.getAr t ∧
        Frame (.dr d :: storedAt (s.getAr t - 1)) s s2)) ∧
    (exec (.pushaur t b) s = .next s1 → b ≠ t → c ≠ t →
      Runs (.popaur c t) s1 (fun s2 => s2.getAr c = s.getAr b ∧ s2.getAr t = s.getAr t ∧
        Frame (.ar c :: storedWideAt (s.getAr t - 2)) s s2))

/-! ## Opclasses 1001, 1010 and 1111 -/

/-- R231, R232, R37 (D23): CSRRD and CSRWR read and write plain storage, CSRRD with `Z`; on a number the platform has
hooked, CSRRD gives the free value and CSRWR has no effect a program can rely on (log entry 5). -/
def Obligations.ControlRegistersAreStorage : Prop :=
  ∀ (d : BitVec 4) (n : BitVec 8) (s : State),
    (csrIsHooked s.params n = false →
      Runs (.csrrd d n) s (WritesZ d (s.csr[n.toNat]'n.isLt) s) ∧
      Runs (.csrwr d n) s (fun t => t.csr[n.toNat]'n.isLt = s.getDr d ∧ Advances s t ∧ Frame [.csr n] s t)) ∧
    (csrIsHooked s.params n = true →
      Runs (.csrrd d n) s (fun t => t.getDr d = Config.csrPlatformRead n s.draws ∧
        (t.flags.z = true ↔ Config.csrPlatformRead n s.draws = 0) ∧ t.draws = s.draws + 1 ∧ Advances s t ∧
        Frame [.dr d, .z, .draws] s t) ∧
      Runs (.csrwr d n) s (WritesNothing s))

/-- R242: SETSSP copies ARs to SSP and changes nothing else; its word is the rule's own. -/
def Obligations.SetsspCopiesTheRegister : Prop :=
  ∀ (p : Params) (b : BitVec 2) (s : State),
    decode p (0xA10000 ||| Laws.placed b 14) = .ok (.setssp b) ∧
    Runs (.setssp b) s (fun t => t.ssp = s.getAr b ∧ Advances s t ∧ Frame [.ssp] s t)

/-- R243, R274 (D29): with its banks loaded, SWI leaves `pc + 1` in LR and goes to the address in the banks and imm12;
SSP, memory, flags and all else are kept. -/
def Obligations.SwiLinksAndJumps : Prop :=
  ∀ (imm : BitVec 12) (s : State), s.banksLoaded [0, 1, 2] = true →
    Runs (.swi imm) s (fun t => t.lr = s.pc + 1 ∧ Continues (BitVec.ofNat 48 (s.bank[2].toNat * 2 ^ 36 +
      s.bank[1].toNat * 2 ^ 24 + s.bank[0].toNat * 2 ^ 12 + imm.toNat)) t ∧ Frame [.lr] s t)

/-- R251, R252, R254, R255 (D3): the moves and sums on special registers, for every register a code can name; writing
PC is a jump. -/
def Obligations.SpecialRegisterMovesAndSums : Prop :=
  ∀ (ct cs b : BitVec 2) (t u : SpecialReg) (imm : BitVec 14) (s : State),
    s.params.specialReg ct = some t → s.params.specialReg cs = some u →
    Runs (.srmovur ct cs) s (WritesSr t (s.getSr u) s) ∧
    Runs (.srmovaur ct b) s (WritesSr t (s.getAr b) s) ∧
    Runs (.sraddsi ct imm) s (WritesSr t (BitVec.ofInt 48 ((s.getSr t).toNat + imm.toInt)) s) ∧
    Runs (.srsubsi ct imm) s (WritesSr t (BitVec.ofInt 48 ((s.getSr t).toNat - imm.toInt)) s)

/-- R253, R256, R257, R53 (D3, D6): the conditional jump, the store and the load on special registers. Where the platform
rejects a cell, the store or load ends in `NoMemory` of the first one rejected (R58, D30, log entry 4); a cell read that
holds no value is the model's stop (log entry 13). -/
def Obligations.SpecialRegisterJumpsAndAccesses : Prop :=
  ∀ (ct cs : BitVec 2) (cc : BitVec 4) (t u : SpecialReg) (i10 : BitVec 10) (i12 : BitVec 12) (s : State),
    s.params.specialReg ct = some t → s.params.specialReg cs = some u →
    (ccHolds s.params cc s.flags = some true → Runs (.srjccso ct cc i10) s
      (fun s' => Continues (BitVec.ofInt 48 ((s.getSr t).toNat + i10.toInt)) s' ∧ Frame [] s s')) ∧
    (ccHolds s.params cc s.flags = some false → Runs (.srjccso ct cc i10) s (WritesNothing s)) ∧
    (ccHolds s.params cc s.flags = none → exec (.srjccso ct cc i10) s = .refused (.condReserved cc)) ∧
    (admitsWide s.params (s.getSr t + BitVec.ofInt 48 i12.toInt) .write → Runs (.srstso ct cs i12) s
      (fun s' => s'.holdsWide (s.getSr t + BitVec.ofInt 48 i12.toInt) (s.getSr u) ∧ Advances s s' ∧
        Frame (storedWideAt (s.getSr t + BitVec.ofInt 48 i12.toInt)) s s')) ∧
    (∀ v, admitsWide s.params (s.getSr u + BitVec.ofInt 48 i12.toInt) .read →
      s.holdsWide (s.getSr u + BitVec.ofInt 48 i12.toInt) v → Runs (.srldso ct cs i12) s (WritesSr t v s)) ∧
    StopsAtWideWrite (exec (.srstso ct cs i12) s) s (s.getSr t + BitVec.ofInt 48 i12.toInt) ∧
    StopsAtWideRead (exec (.srldso ct cs i12) s) s (s.getSr u + BitVec.ofInt 48 i12.toInt)

/-- R26, R250 (D3): a micro-operation whose target or base code names no special register is `ReservedEncoding`. -/
def Obligations.UnnamedSpecialRegisterIsReserved : Prop :=
  ∀ (c d b : BitVec 2) (cc : BitVec 4) (i10 : BitVec 10) (i12 : BitVec 12) (i14 : BitVec 14) (s : State),
    s.params.specialReg c = none →
    ∀ i ∈ [Instr.srmovur c d, .srmovur d c, .srmovaur c b, .srjccso c cc i10, .sraddsi c i14, .srsubsi c i14,
        .srstso c d i12, .srstso d c i12, .srldso c d i12, .srldso d c i12],
      exec i s = .refused (.reservedEncoding (encode i) .noSpecialRegister)

/-- R41, R207 to R211, R221 to R224, R242 (D9): each instruction with a list of micro-operations has the effect of
the list's items run one after another through their own meanings, PC held and the banks kept. -/
def Obligations.SequencesAreTheirMicroOperations : Prop :=
  ∀ (t b : BitVec 2) (d : BitVec 4) (i12 : BitVec 12) (i16 : BitVec 16) (s : State), paramsWf s.params = true →
    let x := s.params.srIndex
    let al := s.params.ccAL
    let linked (last : Instr) := runUops [.srsubsi x.ssp 2, .srstso x.ssp x.lr 0, .srmovur x.lr x.pc, last] s
    exec (.jsrur t) s = linked (.jccur t al) ∧
    (s.banksLoaded [0, 1, 2] = true → exec (.jsrui i12) s = linked (.jccui al i12)) ∧
    exec (.bsrsr d) s = linked (.bccsr d al) ∧
    exec (.bsrso i16) s = linked (.balso i16) ∧
    exec .ret s = runUops [.sraddsi x.ssp 2, .srldso x.lr x.ssp (-2), .srjccso x.lr al 1] s ∧
    exec (.pushur t d) s = runUops [.subasi t 1, .stur t d] s ∧
    exec (.pushaur t b) s = runUops [.subasi t 2, .staso t b 0] s ∧
    exec (.popur d b) s = runUops [.addasi b 1, .ldso d b (-1)] s ∧
    exec (.popaur t b) s = runUops [.addasi b 2, .ldaso t b (-2)] s ∧
    exec (.setssp b) s = runUops [.srmovaur x.ssp b] s

/-- R83 (D33): a signed immediate exists exactly in its range and stands for its value; the displacement of a
PC-relative operand leads from the instruction's own address to the target, at any distance that fits. -/
def Obligations.ImmediatesStandForTheirValues : Prop :=
  ∀ (n : Nat) (v : Int) (pc target : Addr), 0 < n →
    ((signedImm n v).isSome = true ↔ -2 ^ (n - 1) ≤ v ∧ v ≤ 2 ^ (n - 1) - 1) ∧
    (∀ b, signedImm n v = some b → b.toInt = v) ∧
    (∀ b, displacement n pc target = some b → offsetAddr pc b = target)

/-- R82, R120, R36: whatever banks were loaded before, a macro acts on its whole 24-bit or 48-bit immediate: the
arithmetic and logic on DRt with the flags of the register forms, the store at ARt, the conditional jump and the call.
As a program text a macro is accepted at load (R310; log entry 31), if its condition code has a meaning and neither reset
nor its own jump leads inside it.
The banks its LUIui wrote are the only other places changed, and no bank stays loaded. The carry and borrow of `add.u`,
`sub.u` and `comp.u` and the order of the compare are the spec's decisions D11 and D12 (log entry 17), the unbroken run
of LUIui and its consumer D15 (log entry 19), and that the call leaves the fourth word's own address in LR D8, D31 and
conflict C2 (log entries 20 and 21). -/
def Obligations.MacrosActOnTheWholeImmediate : Prop :=
  ∀ (k : Word) (a : Addr) (t cc : BitVec 4) (b : BitVec 2) (s : State),
    let v := (s.getDr t).toNat
    let over24 (post : State → Prop) (changed : List Loc) (s' : State) :=
      post s' ∧ Continues (s.pc + 2) s' ∧ Frame (.bank 0 :: changed) s s'
    let over48 (target : Addr) (changed : List Loc) (s' : State) :=
      Continues target s' ∧ Frame ([.bank 0, .bank 1, .bank 2] ++ changed) s s'
    RunsAll (expand (.copy k t)) s
      (over24 (fun s' => s'.getDr t = k ∧ (s'.flags.z = true ↔ k = 0)) [.dr t, .z]) ∧
    RunsAll (expand (.addU k t)) s (over24 (fun s' => s'.getDr t = BitVec.ofNat 24 (v + k.toNat) ∧
      (s'.flags.z = true ↔ BitVec.ofNat 24 (v + k.toNat) = 0) ∧ (s'.flags.c = true ↔ 2 ^ 24 ≤ v + k.toNat))
      [.dr t, .z, .c]) ∧
    RunsAll (expand (.subU k t)) s (over24 (fun s' => s'.getDr t = BitVec.ofInt 24 (v - k.toNat : Int) ∧
      (s'.flags.z = true ↔ v = k.toNat) ∧ (s'.flags.c = true ↔ v < k.toNat)) [.dr t, .z, .c]) ∧
    RunsAll (expand (.and k t)) s (over24 (fun s' => s'.getDr t = s.getDr t &&& k ∧
      (s'.flags.z = true ↔ s.getDr t &&& k = 0)) [.dr t, .z]) ∧
    RunsAll (expand (.or k t)) s (over24 (fun s' => s'.getDr t = s.getDr t ||| k ∧
      (s'.flags.z = true ↔ s.getDr t ||| k = 0)) [.dr t, .z]) ∧
    RunsAll (expand (.xor k t)) s (over24 (fun s' => s'.getDr t = s.getDr t ^^^ k ∧
      (s'.flags.z = true ↔ s.getDr t = k)) [.dr t, .z]) ∧
    RunsAll (expand (.compU k t)) s (over24 (fun s' => (s'.flags.z = true ↔ v = k.toNat) ∧
      (s'.flags.c = true ↔ v < k.toNat)) [.z, .c]) ∧
    (memAdmits s.params (s.getAr b) .write = true → RunsAll (expand (.store k b)) s
      (over24 (fun s' => s'.cell (s.getAr b) = some k) (storedAt (s.getAr b)))) ∧
    (ccHolds s.params cc s.flags = some true → RunsAll (expand (.jump cc a)) s (over48 a [])) ∧
    (ccHolds s.params cc s.flags = some false → RunsAll (expand (.jump cc a)) s (over48 (s.pc + 4) [])) ∧
    (admitsWide s.params (s.ssp - 2) .write → RunsAll (expand (.jumpSub a)) s (fun s' => s'.ssp = s.ssp - 2 ∧
      s'.lr = s.pc + 3 ∧ s'.holdsWide (s.ssp - 2) s.lr ∧
      over48 a ([.ssp, .lr] ++ storedWideAt (s.ssp - 2)) s')) ∧
    ∀ (p : Params) (base : Addr) (m : Macro),
      (∀ x c, x = p.resetPc ∨ m = .jumpSub x ∨ m = .jump c x →
        ∀ k, 0 < k → k < (expand m).length → x ≠ wordAddr base k) →
      (∀ x c, m = .jump c x → (p.ccTable[c.toNat]'c.isLt).isSome = true) →
      refusedAtLoad p base ((expand m).map encode) = none

/-! ## Conditions and rules about the whole machine -/

/-- R42, R103: under every table as R42 asks, the code of `AL` holds for all flags, so with it a conditional
instruction is its unconditional form. -/
def Obligations.AlwaysConditionAlwaysHolds : Prop :=
  ∀ (t u : BitVec 4) (i12 : BitVec 12) (s : State), paramsWf s.params = true →
    ccHolds s.params s.params.ccAL s.flags = some true ∧
    exec (.mccur t u s.params.ccAL) s = exec (.movur t u) s ∧
    exec (.bccso s.params.ccAL i12) s = exec (.balso (i12.signExtend 16)) s

/-- R43 (D10): the default table gives each code the test of the flags the spec lists. The table is the spec's own
choice (log entry 2). -/
def Obligations.DefaultConditionsTestTheFlags : Prop :=
  ∀ f : Flags,
    ccHolds defaultParams 0 f = some f.z ∧ ccHolds defaultParams 1 f = some (!f.z) ∧
    ccHolds defaultParams 2 f = some f.c ∧ ccHolds defaultParams 3 f = some (!f.c) ∧
    ccHolds defaultParams 4 f = some f.n ∧ ccHolds defaultParams 5 f = some (!f.n) ∧
    ccHolds defaultParams 6 f = some f.v ∧ ccHolds defaultParams 7 f = some (!f.v) ∧
    ccHolds defaultParams 8 f = some (!f.c && !f.z) ∧ ccHolds defaultParams 9 f = some (f.c || f.z) ∧
    ccHolds defaultParams 10 f = some (decide (f.n = f.v)) ∧ ccHolds defaultParams 11 f = some (decide (f.n ≠ f.v)) ∧
    ccHolds defaultParams 12 f = some (!f.z && decide (f.n = f.v)) ∧
    ccHolds defaultParams 13 f = some (f.z || decide (f.n ≠ f.v)) ∧
    ccHolds defaultParams 14 f = some true ∧ ccHolds defaultParams 15 f = none

/-- R27, R28: whatever instruction completes, the flags outside its braces are as they were. -/
def Obligations.FlagsOutsideTheBracesAreKept : Prop :=
  ∀ (i : Instr) (s t : State), exec i s = .next t →
    ∀ l ∈ [Loc.z, .c, .n, .v], l ∉ braces i → t.observe l = s.observe l

/-- R24, R25, R26: apart from micro-operations, LR is written only by the calls, SWI and RET, SSP only by the calls,
RET and SETSSP; the fourth special register and the parameters by nothing. -/
def Obligations.SpecialRegistersHaveFewWriters : Prop :=
  ∀ (i : Instr) (s t : State), exec i s = .next t →
    (isUop i = false → isCall i = false → i ≠ .ret → (∀ imm, i ≠ .swi imm) → t.lr = s.lr) ∧
    (isUop i = false → isCall i = false → i ≠ .ret → (∀ b, i ≠ .setssp b) → t.ssp = s.ssp) ∧
    t.sr3 = s.sr3 ∧ t.params = s.params

/-- R57: an instruction outside the list of stores, pushes and calls changes no cell, and one outside the list of
memory instructions neither reads nor writes any: with another memory it does the same. -/
def Obligations.OtherInstructionsLeaveMemoryAlone : Prop :=
  ∀ (i : Instr) (s : State) (m : Memory),
    (∀ t, writesMemory i = false → exec i s = .next t → t.mem = s.mem ∧ t.stored = s.stored) ∧
    (accessesMemory i = false → exec i { s with mem := m } = onNext (fun t => { t with mem := m }) (exec i s))

/-- R22: LR and SSP reach no data or address register: apart from the calls, RET and the micro-operations, an
instruction does the same to everything else whatever LR and SSP hold. -/
def Obligations.LinkAndStackPointerStayHidden : Prop :=
  ∀ (i : Instr) (s : State) (x y : Addr), isUop i = false → isCall i = false → i ≠ .ret →
    onNext (fun t => { t with lr := 0, ssp := 0 }) (exec i { s with lr := x, ssp := y }) =
      onNext (fun t => { t with lr := 0, ssp := 0 }) (exec i s)

/-- R12, R100, R140, R160, R180, R200, R270: a well-formed instruction ends only in a next state, in an outcome its rule
lists (`UimmNotLoaded` for a consumer of `uimm`, `CondReserved` for a conditional, `NoMemory` for an access to memory),
or in the model's own stop at an access to a cell without a value, which no rule lists (R45 leaves it open; log entry
13). That an unloaded bank ends so is the spec's decision D15 (log entry 19), that there are outcomes and no traps D25,
and which cells the platform rejects the open parameter D30 (log entry 4). -/
def Obligations.OutcomesAreTheListedOnes : Prop :=
  ∀ (i : Instr) (s : State), i.wellFormed s.params = true →
    (∃ t, exec i s = .next t) ∨
    (banksRead i ≠ [] ∧ exec i s = .fault .uimmNotLoaded) ∨
    (isConditional i = true ∧ ∃ cc, exec i s = .refused (.condReserved cc)) ∨
    (accessesMemory i = true ∧ ∃ a, exec i s = .fault (.noMemory a) ∨ exec i s = .fault (.unwrittenMemory a))
end

