-- ==== Sys2Proof/Laws/Load.lean ====
section
/-!
SUPPORT. What the check of a program text at load can answer: how a text splits, when it is accepted, which word's
ground it names, and which addresses lie inside a run of LUIui.
-/

namespace Sys2Proof.Machine

/-- The run of LUIui after a whole text. -/
def runThrough (p : Params) (run : LuiRun) (text : List Word) : LuiRun :=
  text.foldl (fun r w => runAfter r (decodeText p w)) run

/-- The address of the word after a text. -/
def endOf (addr : Addr) (text : List Word) : Addr := addr + BitVec.ofNat 48 text.length

/-- A word of a text, from where it stands and the run before it. -/
def textWordAt (p : Params) (addr : Addr) (run : LuiRun) (w : Word) : TextWord :=
  { addr := addr, word := w, decoded := decodeText p w, run := run }

section
variable (p : Params) (addr : Addr) (run : LuiRun) (w : Word) (text : List Word)

@[simp] theorem runThrough_nil : runThrough p run [] = run := rfl
@[simp] theorem runThrough_cons :
    runThrough p run (w :: text) = runThrough p (runAfter run (decodeText p w)) text := rfl
@[simp] theorem endOf_nil : endOf addr [] = addr := by simp [endOf]
theorem endOf_cons : endOf addr (w :: text) = endOf (addr + 1) text := by
  simp only [endOf, List.length_cons, BitVec.ofNat_add, BitVec.add_assoc, BitVec.add_comm (1 : Addr)]
  rfl
@[simp] theorem textWords_nil : textWords p addr run [] = [] := rfl
theorem textWords_cons : textWords p addr run (w :: text) =
    textWordAt p addr run w :: textWords p (addr + 1) (runAfter run (decodeText p w)) text := rfl
@[simp] theorem textWordAt_addr : (textWordAt p addr run w).addr = addr := rfl
@[simp] theorem textWordAt_word : (textWordAt p addr run w).word = w := rfl
@[simp] theorem textWordAt_decoded : (textWordAt p addr run w).decoded = decodeText p w := rfl
@[simp] theorem textWordAt_run : (textWordAt p addr run w).run = run := rfl

end

/-- The words of two texts one after the other. -/
theorem textWords_append (p : Params) (addr : Addr) (run : LuiRun) (before after : List Word) :
    textWords p addr run (before ++ after) =
      textWords p addr run before ++ textWords p (endOf addr before) (runThrough p run before) after := by
  induction before generalizing addr run with
  | nil => simp
  | cons w before ih => rw [List.cons_append, textWords_cons, textWords_cons, ih, endOf_cons, runThrough_cons]; rfl

theorem runThrough_append (p : Params) (run : LuiRun) (before after : List Word) :
    runThrough p run (before ++ after) = runThrough p (runThrough p run before) after := by
  simp only [runThrough, List.foldl_append]

theorem endOf_append (addr : Addr) (before after : List Word) :
    endOf addr (before ++ after) = endOf (endOf addr before) after := by
  simp only [endOf, List.length_append, BitVec.ofNat_add, BitVec.add_assoc]

/-- LUIui adds its bank to the run and keeps the others (R121). -/
theorem runAfter_luiui (run : LuiRun) {x : BitVec 2} (hx : x ≠ 3) (imm : Bank) (b : Fin 3) :
    (runAfter run (.ok (.luiui x imm)))[b] = if x.toNat = b.val then some imm else run[b] := by
  have : x.toNat ≠ 3 := fun e => hx (BitVec.eq_of_toNat_eq e)
  have : x.toNat < 3 := by omega
  simp only [runAfter, this, dif_pos, Fin.getElem_fin, Vector.getElem_set]

/-- Every word of the list is a word of the text with what it decodes to. -/
theorem decoded_of_mem_textWords {p : Params} {addr : Addr} {run : LuiRun} {text : List Word} {x : TextWord}
    (h : x ∈ textWords p addr run text) : x.decoded = decodeText p x.word := by
  induction text generalizing addr run with
  | nil => cases h
  | cons w text ih =>
    rw [textWords_cons] at h
    obtain rfl | h := List.mem_cons.1 h
    · rfl
    · exact ih h

/-- A text is accepted when no word gives a ground, and reset and its branches enter no run of LUIui. -/
theorem refusedAtLoad_eq_none {p : Params} {base : Addr} {text : List Word} :
    refusedAtLoad p base text = none ↔
      (∀ x ∈ textWords p base noRun text, x.ground p = none) ∧
        ∀ a ∈ p.resetPc :: (textWords p base noRun text).filterMap (TextWord.target p),
          a ∉ insideRuns (textWords p base noRun text) := by
  simp only [refusedAtLoad, Option.or_eq_none_iff, List.findSome?_eq_none_iff, Option.map_eq_none_iff,
    List.find?_eq_none, List.contains_iff_mem]

/-- The first word that gives a ground decides. -/
theorem refusedAtLoad_of_first_ground {p : Params} {base : Addr} {before after : List Word} {w : Word} {r : Refusal}
    (hb : (textWords p base noRun before).findSome? (TextWord.ground p) = none)
    (hw : (textWordAt p (endOf base before) (runThrough p noRun before) w).ground p = some r) :
    refusedAtLoad p base (before ++ w :: after) = some r := by
  simp only [refusedAtLoad, textWords_append, textWords_cons, List.findSome?_append, hb, Option.none_or,
    List.findSome?_cons, hw, Option.some_or]

/-- After a text that is accepted, the next word's own ground is the answer. -/
theorem refusedAtLoad_of_ground {p : Params} {base : Addr} {before after : List Word} {w : Word} {r : Refusal}
    (hb : refusedAtLoad p base before = none)
    (hw : (textWordAt p (endOf base before) (runThrough p noRun before) w).ground p = some r) :
    refusedAtLoad p base (before ++ w :: after) = some r :=
  refusedAtLoad_of_first_ground (List.findSome?_eq_none_iff.2 (refusedAtLoad_eq_none.1 hb).1) hw

/-- A word that selects no instruction, for a cause that refuses a text. -/
theorem ground_of_error {p : Params} {addr : Addr} {run : LuiRun} {w : Word} {cause : ReservedCause}
    (hd : decodeText p w = .error cause) : (textWordAt p addr run w).ground p =
      if refusesText cause then some (.reservedEncoding w cause) else none := by
  simp only [TextWord.ground, textWordAt, hd]

/-- A consumer of `uimm` whose run does not load a bank it reads. -/
theorem ground_of_bank_missing {p : Params} {addr : Addr} {run : LuiRun} {w : Word} {i : Instr} {b : Fin 3}
    (hd : decodeText p w = .ok i) (hb : b ∈ banksRead i) (hr : run[b] = none) :
    (textWordAt p addr run w).ground p = some (.luiRunMissing addr) := by
  have : (banksRead i).all (fun b => (textWordAt p addr run w).run[b].isSome) = false := by
    rw [List.all_eq_false]
    exact ⟨b, hb, by simp [textWordAt, hr]⟩
  simp only [TextWord.ground, textWordAt_decoded, hd, this]
  rfl

/-- A refusal that names a word comes from that word itself. -/
theorem refusesText_of_refusedAtLoad {p : Params} {base : Addr} {text : List Word} {w : Word} {cause : ReservedCause}
    (h : refusedAtLoad p base text = some (.reservedEncoding w cause)) :
    decodeText p w = .error cause ∧ refusesText cause = true := by
  simp only [refusedAtLoad, Option.or_eq_some_iff, Option.map_eq_some_iff, reduceCtorEq, and_false, exists_false,
    or_false] at h
  obtain ⟨x, hx, hg⟩ := List.exists_of_findSome?_eq_some h
  have hd := decoded_of_mem_textWords hx
  simp only [TextWord.ground] at hg
  split at hg
  · next c hc =>
    split at hg <;> cases hg
    next hr => exact ⟨hd ▸ hc, hr⟩
  · repeat' split at hg
    all_goals cases hg

@[simp] theorem banksRead_luiui (x : BitVec 2) (imm : Bank) : banksRead (.luiui x imm) = [] := rfl
@[simp] theorem conditionOf_luiui (x : BitVec 2) (imm : Bank) : conditionOf (.luiui x imm) = none := rfl
@[simp] theorem branchTarget_luiui (p : Params) (pc : Addr) (run : LuiRun) (x : BitVec 2) (imm : Bank) :
    branchTarget p pc run (.luiui x imm) = none := rfl

/-- After LUIui of a bank that exists there is a run. -/
theorem runAfter_luiui_ne (run : LuiRun) {x : BitVec 2} (hx : x ≠ 3) (imm : Bank) :
    runAfter run (.ok (.luiui x imm)) ≠ noRun := by
  have : x.toNat ≠ 3 := fun e => hx (BitVec.eq_of_toNat_eq e)
  have h := runAfter_luiui run hx imm ⟨x.toNat, by omega⟩
  intro e
  rw [e, if_pos rfl] at h
  simp [noRun] at h

theorem leadsToConsumer_luiui {x : TextWord} {b : BitVec 2} {imm : Bank} (h : x.decoded = .ok (.luiui b imm))
    (rest : List TextWord) : leadsToConsumer (x :: rest) = leadsToConsumer rest := by
  simp only [leadsToConsumer, h]

theorem leadsToConsumer_consumer {x : TextWord} {i : Instr} (h : x.decoded = .ok i) (hi : banksRead i ≠ [])
    (rest : List TextWord) : leadsToConsumer (x :: rest) = true := by
  simp only [leadsToConsumer, h]
  cases i <;> first | rfl | exact absurd rfl hi

/-- A word of a text with LUIui just before it, from which LUIui go on to a consumer, lies inside a run. -/
theorem mem_insideRuns {before after : List TextWord} {x : TextWord} (hr : x.run ≠ noRun)
    (hc : leadsToConsumer (x :: after) = true) : x.addr ∈ insideRuns (before ++ x :: after) := by
  induction before with
  | nil => simp [insideRuns, hr, hc]
  | cons y before ih =>
    simp only [List.cons_append, insideRuns]
    split
    · exact List.mem_cons_of_mem _ ih
    · exact ih

/-- An address inside a run is that of a word with LUIui just before it. -/
theorem exists_of_mem_insideRuns {words : List TextWord} {a : Addr} (h : a ∈ insideRuns words) :
    ∃ x ∈ words, x.run ≠ noRun ∧ x.addr = a := by
  induction words with
  | nil => cases h
  | cons x words ih =>
    simp only [insideRuns, Bool.and_eq_true, decide_eq_true_eq] at h
    split at h
    · next hx =>
      obtain rfl | h := List.mem_cons.1 h
      · exact ⟨x, List.mem_cons_self, hx.1, rfl⟩
      · obtain ⟨y, hy, hr⟩ := ih h
        exact ⟨y, List.mem_cons_of_mem _ hy, hr⟩
    · obtain ⟨y, hy, hr⟩ := ih h
      exact ⟨y, List.mem_cons_of_mem _ hy, hr⟩

end Sys2Proof.Machine
end

