-- ==== Sys2Proof/Laws/Memory.lean ====
section
/-!
SUPPORT. The laws of memory: a read after a write, and the canonical form that every operation on memory keeps.
-/

namespace Sys2Proof.Machine

@[simp] theorem readCell_nil (a : Nat) : readCell [] a = none := rfl

@[simp] theorem readCell_writeCell_self (m : Memory) (a : Nat) (v : Word) :
    readCell (writeCell m a v) a = some v := by
  induction m with
  | nil => simp [writeCell, readCell]
  | cons e m ih =>
    obtain ⟨k, u⟩ := e
    unfold writeCell
    split
    · simp [readCell]
    · split
      · simp [readCell]
      · simp [readCell, *]

theorem readCell_writeCell_ne (m : Memory) {a b : Nat} (v : Word) (h : b ≠ a) :
    readCell (writeCell m a v) b = readCell m b := by
  induction m with
  | nil => simp [writeCell, readCell, h, unlistedCell]
  | cons e m ih =>
    obtain ⟨k, u⟩ := e
    unfold writeCell
    split
    · simp [readCell, h]
    · split
      · next he => subst he; simp [readCell, h]
      · simp [readCell, ih]

theorem memoryWfFrom_mono {m : Memory} {lo lo' : Nat} (h : memoryWfFrom lo m = true) (hl : lo' ≤ lo) :
    memoryWfFrom lo' m = true := by
  cases m with
  | nil => rfl
  | cons e m =>
    obtain ⟨k, u⟩ := e
    simp only [memoryWfFrom, Bool.and_eq_true, decide_eq_true_eq] at h ⊢
    exact ⟨⟨by omega, h.1.2⟩, h.2⟩

theorem writeCell_wfFrom {m : Memory} {lo a : Nat} (v : Word) (h : memoryWfFrom lo m = true) (hl : lo ≤ a)
    (ha : a < 2 ^ 48) : memoryWfFrom lo (writeCell m a v) = true := by
  induction m generalizing lo with
  | nil => simp [writeCell, memoryWfFrom, hl]; omega
  | cons e m ih =>
    obtain ⟨k, u⟩ := e
    simp only [memoryWfFrom, Bool.and_eq_true, decide_eq_true_eq] at h
    unfold writeCell
    split
    · simp only [memoryWfFrom, Bool.and_eq_true, decide_eq_true_eq]
      exact ⟨⟨hl, ha⟩, ⟨by omega, h.1.2⟩, h.2⟩
    · split
      · next he =>
        subst he
        simp only [memoryWfFrom, Bool.and_eq_true, decide_eq_true_eq]
        exact h
      · simp only [memoryWfFrom, Bool.and_eq_true, decide_eq_true_eq]
        exact ⟨h.1, ih h.2 (by omega)⟩

/-- A write at an address keeps the canonical form. -/
theorem writeCell_wf {m : Memory} (a : Addr) (v : Word) (h : Memory.wf m = true) :
    Memory.wf (writeCell m a.toNat v) = true :=
  writeCell_wfFrom v h (Nat.zero_le _) a.isLt

theorem addAddress_wfFrom {l : List Nat} {lo a : Nat} (h : addressesWfFrom lo l = true) (hl : lo ≤ a)
    (ha : a < 2 ^ 48) : addressesWfFrom lo (addAddress l a) = true := by
  induction l generalizing lo with
  | nil => simp [addAddress, addressesWfFrom, hl]; omega
  | cons k l ih =>
    simp only [addressesWfFrom, Bool.and_eq_true, decide_eq_true_eq] at h
    unfold addAddress
    split
    · simp only [addressesWfFrom, Bool.and_eq_true, decide_eq_true_eq]
      exact ⟨⟨hl, ha⟩, ⟨by omega, h.1.2⟩, h.2⟩
    · split
      · simp only [addressesWfFrom, Bool.and_eq_true, decide_eq_true_eq]
        exact h
      · simp only [addressesWfFrom, Bool.and_eq_true, decide_eq_true_eq]
        exact ⟨h.1, ih h.2 (by omega)⟩

@[simp] theorem mem_addAddress {l : List Nat} {a b : Nat} : b ∈ addAddress l a ↔ b = a ∨ b ∈ l := by
  induction l with
  | nil => simp [addAddress]
  | cons k l ih =>
    unfold addAddress
    split
    · simp
    · split
      · next he => subst he; simp
      · simp only [List.mem_cons, ih]; tauto

/-- Memory after reset is in canonical form. -/
theorem reset_mem_wf (p : Params) : Memory.wf (State.resetWith p).mem = true := rfl

end Sys2Proof.Machine
end

