-- ==== Sys2Proof/Laws/State.lean ====
section
/-!
SUPPORT. One lemma per field per update of the state, and what a register reads after a write, so that no later
proof unfolds a record update.
-/

namespace Sys2Proof.Machine

@[simp] theorem State.setDr_params (s : State) (i : BitVec 4) (v : Word) : (s.setDr i v).params = s.params := rfl
@[simp] theorem State.setDr_ar (s : State) (i : BitVec 4) (v : Word) : (s.setDr i v).ar = s.ar := rfl
@[simp] theorem State.setDr_pc (s : State) (i : BitVec 4) (v : Word) : (s.setDr i v).pc = s.pc := rfl
@[simp] theorem State.setDr_lr (s : State) (i : BitVec 4) (v : Word) : (s.setDr i v).lr = s.lr := rfl
@[simp] theorem State.setDr_ssp (s : State) (i : BitVec 4) (v : Word) : (s.setDr i v).ssp = s.ssp := rfl
@[simp] theorem State.setDr_sr3 (s : State) (i : BitVec 4) (v : Word) : (s.setDr i v).sr3 = s.sr3 := rfl
@[simp] theorem State.setDr_flags (s : State) (i : BitVec 4) (v : Word) : (s.setDr i v).flags = s.flags := rfl
@[simp] theorem State.setDr_bank (s : State) (i : BitVec 4) (v : Word) : (s.setDr i v).bank = s.bank := rfl
@[simp] theorem State.setDr_loaded (s : State) (i : BitVec 4) (v : Word) : (s.setDr i v).loaded = s.loaded := rfl
@[simp] theorem State.setDr_csr (s : State) (i : BitVec 4) (v : Word) : (s.setDr i v).csr = s.csr := rfl
@[simp] theorem State.setDr_halted (s : State) (i : BitVec 4) (v : Word) : (s.setDr i v).halted = s.halted := rfl
@[simp] theorem State.setDr_mem (s : State) (i : BitVec 4) (v : Word) : (s.setDr i v).mem = s.mem := rfl
@[simp] theorem State.setDr_stored (s : State) (i : BitVec 4) (v : Word) : (s.setDr i v).stored = s.stored := rfl
@[simp] theorem State.setDr_draws (s : State) (i : BitVec 4) (v : Word) : (s.setDr i v).draws = s.draws := rfl

@[simp] theorem State.setAr_params (s : State) (i : BitVec 2) (v : Addr) : (s.setAr i v).params = s.params := rfl
@[simp] theorem State.setAr_dr (s : State) (i : BitVec 2) (v : Addr) : (s.setAr i v).dr = s.dr := rfl
@[simp] theorem State.setAr_pc (s : State) (i : BitVec 2) (v : Addr) : (s.setAr i v).pc = s.pc := rfl
@[simp] theorem State.setAr_lr (s : State) (i : BitVec 2) (v : Addr) : (s.setAr i v).lr = s.lr := rfl
@[simp] theorem State.setAr_ssp (s : State) (i : BitVec 2) (v : Addr) : (s.setAr i v).ssp = s.ssp := rfl
@[simp] theorem State.setAr_sr3 (s : State) (i : BitVec 2) (v : Addr) : (s.setAr i v).sr3 = s.sr3 := rfl
@[simp] theorem State.setAr_flags (s : State) (i : BitVec 2) (v : Addr) : (s.setAr i v).flags = s.flags := rfl
@[simp] theorem State.setAr_bank (s : State) (i : BitVec 2) (v : Addr) : (s.setAr i v).bank = s.bank := rfl
@[simp] theorem State.setAr_loaded (s : State) (i : BitVec 2) (v : Addr) : (s.setAr i v).loaded = s.loaded := rfl
@[simp] theorem State.setAr_csr (s : State) (i : BitVec 2) (v : Addr) : (s.setAr i v).csr = s.csr := rfl
@[simp] theorem State.setAr_halted (s : State) (i : BitVec 2) (v : Addr) : (s.setAr i v).halted = s.halted := rfl
@[simp] theorem State.setAr_mem (s : State) (i : BitVec 2) (v : Addr) : (s.setAr i v).mem = s.mem := rfl
@[simp] theorem State.setAr_stored (s : State) (i : BitVec 2) (v : Addr) : (s.setAr i v).stored = s.stored := rfl
@[simp] theorem State.setAr_draws (s : State) (i : BitVec 2) (v : Addr) : (s.setAr i v).draws = s.draws := rfl

@[simp] theorem State.setSr_pc_params (s : State) (v : Addr) : (s.setSr .pc v).params = s.params := rfl
@[simp] theorem State.setSr_pc_dr (s : State) (v : Addr) : (s.setSr .pc v).dr = s.dr := rfl
@[simp] theorem State.setSr_pc_ar (s : State) (v : Addr) : (s.setSr .pc v).ar = s.ar := rfl
@[simp] theorem State.setSr_pc_pc (s : State) (v : Addr) : (s.setSr .pc v).pc = v := rfl
@[simp] theorem State.setSr_pc_lr (s : State) (v : Addr) : (s.setSr .pc v).lr = s.lr := rfl
@[simp] theorem State.setSr_pc_ssp (s : State) (v : Addr) : (s.setSr .pc v).ssp = s.ssp := rfl
@[simp] theorem State.setSr_pc_sr3 (s : State) (v : Addr) : (s.setSr .pc v).sr3 = s.sr3 := rfl
@[simp] theorem State.setSr_pc_flags (s : State) (v : Addr) : (s.setSr .pc v).flags = s.flags := rfl
@[simp] theorem State.setSr_pc_bank (s : State) (v : Addr) : (s.setSr .pc v).bank = s.bank := rfl
@[simp] theorem State.setSr_pc_loaded (s : State) (v : Addr) : (s.setSr .pc v).loaded = s.loaded := rfl
@[simp] theorem State.setSr_pc_csr (s : State) (v : Addr) : (s.setSr .pc v).csr = s.csr := rfl
@[simp] theorem State.setSr_pc_halted (s : State) (v : Addr) : (s.setSr .pc v).halted = s.halted := rfl
@[simp] theorem State.setSr_pc_mem (s : State) (v : Addr) : (s.setSr .pc v).mem = s.mem := rfl
@[simp] theorem State.setSr_pc_stored (s : State) (v : Addr) : (s.setSr .pc v).stored = s.stored := rfl
@[simp] theorem State.setSr_pc_draws (s : State) (v : Addr) : (s.setSr .pc v).draws = s.draws := rfl

@[simp] theorem State.setSr_lr_params (s : State) (v : Addr) : (s.setSr .lr v).params = s.params := rfl
@[simp] theorem State.setSr_lr_dr (s : State) (v : Addr) : (s.setSr .lr v).dr = s.dr := rfl
@[simp] theorem State.setSr_lr_ar (s : State) (v : Addr) : (s.setSr .lr v).ar = s.ar := rfl
@[simp] theorem State.setSr_lr_pc (s : State) (v : Addr) : (s.setSr .lr v).pc = s.pc := rfl
@[simp] theorem State.setSr_lr_lr (s : State) (v : Addr) : (s.setSr .lr v).lr = v := rfl
@[simp] theorem State.setSr_lr_ssp (s : State) (v : Addr) : (s.setSr .lr v).ssp = s.ssp := rfl
@[simp] theorem State.setSr_lr_sr3 (s : State) (v : Addr) : (s.setSr .lr v).sr3 = s.sr3 := rfl
@[simp] theorem State.setSr_lr_flags (s : State) (v : Addr) : (s.setSr .lr v).flags = s.flags := rfl
@[simp] theorem State.setSr_lr_bank (s : State) (v : Addr) : (s.setSr .lr v).bank = s.bank := rfl
@[simp] theorem State.setSr_lr_loaded (s : State) (v : Addr) : (s.setSr .lr v).loaded = s.loaded := rfl
@[simp] theorem State.setSr_lr_csr (s : State) (v : Addr) : (s.setSr .lr v).csr = s.csr := rfl
@[simp] theorem State.setSr_lr_halted (s : State) (v : Addr) : (s.setSr .lr v).halted = s.halted := rfl
@[simp] theorem State.setSr_lr_mem (s : State) (v : Addr) : (s.setSr .lr v).mem = s.mem := rfl
@[simp] theorem State.setSr_lr_stored (s : State) (v : Addr) : (s.setSr .lr v).stored = s.stored := rfl
@[simp] theorem State.setSr_lr_draws (s : State) (v : Addr) : (s.setSr .lr v).draws = s.draws := rfl

@[simp] theorem State.setSr_ssp_params (s : State) (v : Addr) : (s.setSr .ssp v).params = s.params := rfl
@[simp] theorem State.setSr_ssp_dr (s : State) (v : Addr) : (s.setSr .ssp v).dr = s.dr := rfl
@[simp] theorem State.setSr_ssp_ar (s : State) (v : Addr) : (s.setSr .ssp v).ar = s.ar := rfl
@[simp] theorem State.setSr_ssp_pc (s : State) (v : Addr) : (s.setSr .ssp v).pc = s.pc := rfl
@[simp] theorem State.setSr_ssp_lr (s : State) (v : Addr) : (s.setSr .ssp v).lr = s.lr := rfl
@[simp] theorem State.setSr_ssp_ssp (s : State) (v : Addr) : (s.setSr .ssp v).ssp = v := rfl
@[simp] theorem State.setSr_ssp_sr3 (s : State) (v : Addr) : (s.setSr .ssp v).sr3 = s.sr3 := rfl
@[simp] theorem State.setSr_ssp_flags (s : State) (v : Addr) : (s.setSr .ssp v).flags = s.flags := rfl
@[simp] theorem State.setSr_ssp_bank (s : State) (v : Addr) : (s.setSr .ssp v).bank = s.bank := rfl
@[simp] theorem State.setSr_ssp_loaded (s : State) (v : Addr) : (s.setSr .ssp v).loaded = s.loaded := rfl
@[simp] theorem State.setSr_ssp_csr (s : State) (v : Addr) : (s.setSr .ssp v).csr = s.csr := rfl
@[simp] theorem State.setSr_ssp_halted (s : State) (v : Addr) : (s.setSr .ssp v).halted = s.halted := rfl
@[simp] theorem State.setSr_ssp_mem (s : State) (v : Addr) : (s.setSr .ssp v).mem = s.mem := rfl
@[simp] theorem State.setSr_ssp_stored (s : State) (v : Addr) : (s.setSr .ssp v).stored = s.stored := rfl
@[simp] theorem State.setSr_ssp_draws (s : State) (v : Addr) : (s.setSr .ssp v).draws = s.draws := rfl

@[simp] theorem State.withFlags_params (s : State) (f : Flags) : (s.withFlags f).params = s.params := rfl
@[simp] theorem State.withFlags_dr (s : State) (f : Flags) : (s.withFlags f).dr = s.dr := rfl
@[simp] theorem State.withFlags_ar (s : State) (f : Flags) : (s.withFlags f).ar = s.ar := rfl
@[simp] theorem State.withFlags_pc (s : State) (f : Flags) : (s.withFlags f).pc = s.pc := rfl
@[simp] theorem State.withFlags_lr (s : State) (f : Flags) : (s.withFlags f).lr = s.lr := rfl
@[simp] theorem State.withFlags_ssp (s : State) (f : Flags) : (s.withFlags f).ssp = s.ssp := rfl
@[simp] theorem State.withFlags_sr3 (s : State) (f : Flags) : (s.withFlags f).sr3 = s.sr3 := rfl
@[simp] theorem State.withFlags_flags (s : State) (f : Flags) : (s.withFlags f).flags = f := rfl
@[simp] theorem State.withFlags_bank (s : State) (f : Flags) : (s.withFlags f).bank = s.bank := rfl
@[simp] theorem State.withFlags_loaded (s : State) (f : Flags) : (s.withFlags f).loaded = s.loaded := rfl
@[simp] theorem State.withFlags_csr (s : State) (f : Flags) : (s.withFlags f).csr = s.csr := rfl
@[simp] theorem State.withFlags_halted (s : State) (f : Flags) : (s.withFlags f).halted = s.halted := rfl
@[simp] theorem State.withFlags_mem (s : State) (f : Flags) : (s.withFlags f).mem = s.mem := rfl
@[simp] theorem State.withFlags_stored (s : State) (f : Flags) : (s.withFlags f).stored = s.stored := rfl
@[simp] theorem State.withFlags_draws (s : State) (f : Flags) : (s.withFlags f).draws = s.draws := rfl

@[simp] theorem State.resultZ_params (s : State) (t : BitVec 4) (r : Word) : (s.resultZ t r).params = s.params := rfl
@[simp] theorem State.resultZ_dr (s : State) (t : BitVec 4) (r : Word) : (s.resultZ t r).dr = (s.setDr t r).dr := rfl
@[simp] theorem State.resultZ_ar (s : State) (t : BitVec 4) (r : Word) : (s.resultZ t r).ar = s.ar := rfl
@[simp] theorem State.resultZ_pc (s : State) (t : BitVec 4) (r : Word) : (s.resultZ t r).pc = s.pc := rfl
@[simp] theorem State.resultZ_lr (s : State) (t : BitVec 4) (r : Word) : (s.resultZ t r).lr = s.lr := rfl
@[simp] theorem State.resultZ_ssp (s : State) (t : BitVec 4) (r : Word) : (s.resultZ t r).ssp = s.ssp := rfl
@[simp] theorem State.resultZ_sr3 (s : State) (t : BitVec 4) (r : Word) : (s.resultZ t r).sr3 = s.sr3 := rfl
@[simp] theorem State.resultZ_flags (s : State) (t : BitVec 4) (r : Word) : (s.resultZ t r).flags = flagsZ r s.flags := rfl
@[simp] theorem State.resultZ_bank (s : State) (t : BitVec 4) (r : Word) : (s.resultZ t r).bank = s.bank := rfl
@[simp] theorem State.resultZ_loaded (s : State) (t : BitVec 4) (r : Word) : (s.resultZ t r).loaded = s.loaded := rfl
@[simp] theorem State.resultZ_csr (s : State) (t : BitVec 4) (r : Word) : (s.resultZ t r).csr = s.csr := rfl
@[simp] theorem State.resultZ_halted (s : State) (t : BitVec 4) (r : Word) : (s.resultZ t r).halted = s.halted := rfl
@[simp] theorem State.resultZ_mem (s : State) (t : BitVec 4) (r : Word) : (s.resultZ t r).mem = s.mem := rfl
@[simp] theorem State.resultZ_stored (s : State) (t : BitVec 4) (r : Word) : (s.resultZ t r).stored = s.stored := rfl
@[simp] theorem State.resultZ_draws (s : State) (t : BitVec 4) (r : Word) : (s.resultZ t r).draws = s.draws := rfl

@[simp] theorem State.resultZC_params (s : State) (t : BitVec 4) (r : Word) (c : Bool) : (s.resultZC t r c).params = s.params := rfl
@[simp] theorem State.resultZC_dr (s : State) (t : BitVec 4) (r : Word) (c : Bool) : (s.resultZC t r c).dr = (s.setDr t r).dr := rfl
@[simp] theorem State.resultZC_ar (s : State) (t : BitVec 4) (r : Word) (c : Bool) : (s.resultZC t r c).ar = s.ar := rfl
@[simp] theorem State.resultZC_pc (s : State) (t : BitVec 4) (r : Word) (c : Bool) : (s.resultZC t r c).pc = s.pc := rfl
@[simp] theorem State.resultZC_lr (s : State) (t : BitVec 4) (r : Word) (c : Bool) : (s.resultZC t r c).lr = s.lr := rfl
@[simp] theorem State.resultZC_ssp (s : State) (t : BitVec 4) (r : Word) (c : Bool) : (s.resultZC t r c).ssp = s.ssp := rfl
@[simp] theorem State.resultZC_sr3 (s : State) (t : BitVec 4) (r : Word) (c : Bool) : (s.resultZC t r c).sr3 = s.sr3 := rfl
@[simp] theorem State.resultZC_flags (s : State) (t : BitVec 4) (r : Word) (c : Bool) : (s.resultZC t r c).flags = flagsZC r c s.flags := rfl
@[simp] theorem State.resultZC_bank (s : State) (t : BitVec 4) (r : Word) (c : Bool) : (s.resultZC t r c).bank = s.bank := rfl
@[simp] theorem State.resultZC_loaded (s : State) (t : BitVec 4) (r : Word) (c : Bool) : (s.resultZC t r c).loaded = s.loaded := rfl
@[simp] theorem State.resultZC_csr (s : State) (t : BitVec 4) (r : Word) (c : Bool) : (s.resultZC t r c).csr = s.csr := rfl
@[simp] theorem State.resultZC_halted (s : State) (t : BitVec 4) (r : Word) (c : Bool) : (s.resultZC t r c).halted = s.halted := rfl
@[simp] theorem State.resultZC_mem (s : State) (t : BitVec 4) (r : Word) (c : Bool) : (s.resultZC t r c).mem = s.mem := rfl
@[simp] theorem State.resultZC_stored (s : State) (t : BitVec 4) (r : Word) (c : Bool) : (s.resultZC t r c).stored = s.stored := rfl
@[simp] theorem State.resultZC_draws (s : State) (t : BitVec 4) (r : Word) (c : Bool) : (s.resultZC t r c).draws = s.draws := rfl

@[simp] theorem State.resultZN_params (s : State) (t : BitVec 4) (r : Word) : (s.resultZN t r).params = s.params := rfl
@[simp] theorem State.resultZN_dr (s : State) (t : BitVec 4) (r : Word) : (s.resultZN t r).dr = (s.setDr t r).dr := rfl
@[simp] theorem State.resultZN_ar (s : State) (t : BitVec 4) (r : Word) : (s.resultZN t r).ar = s.ar := rfl
@[simp] theorem State.resultZN_pc (s : State) (t : BitVec 4) (r : Word) : (s.resultZN t r).pc = s.pc := rfl
@[simp] theorem State.resultZN_lr (s : State) (t : BitVec 4) (r : Word) : (s.resultZN t r).lr = s.lr := rfl
@[simp] theorem State.resultZN_ssp (s : State) (t : BitVec 4) (r : Word) : (s.resultZN t r).ssp = s.ssp := rfl
@[simp] theorem State.resultZN_sr3 (s : State) (t : BitVec 4) (r : Word) : (s.resultZN t r).sr3 = s.sr3 := rfl
@[simp] theorem State.resultZN_flags (s : State) (t : BitVec 4) (r : Word) : (s.resultZN t r).flags = flagsZN r s.flags := rfl
@[simp] theorem State.resultZN_bank (s : State) (t : BitVec 4) (r : Word) : (s.resultZN t r).bank = s.bank := rfl
@[simp] theorem State.resultZN_loaded (s : State) (t : BitVec 4) (r : Word) : (s.resultZN t r).loaded = s.loaded := rfl
@[simp] theorem State.resultZN_csr (s : State) (t : BitVec 4) (r : Word) : (s.resultZN t r).csr = s.csr := rfl
@[simp] theorem State.resultZN_halted (s : State) (t : BitVec 4) (r : Word) : (s.resultZN t r).halted = s.halted := rfl
@[simp] theorem State.resultZN_mem (s : State) (t : BitVec 4) (r : Word) : (s.resultZN t r).mem = s.mem := rfl
@[simp] theorem State.resultZN_stored (s : State) (t : BitVec 4) (r : Word) : (s.resultZN t r).stored = s.stored := rfl
@[simp] theorem State.resultZN_draws (s : State) (t : BitVec 4) (r : Word) : (s.resultZN t r).draws = s.draws := rfl

@[simp] theorem State.resultZNV_params (s : State) (t : BitVec 4) (r : Word) (b : Bool) : (s.resultZNV t r b).params = s.params := rfl
@[simp] theorem State.resultZNV_dr (s : State) (t : BitVec 4) (r : Word) (b : Bool) : (s.resultZNV t r b).dr = (s.setDr t r).dr := rfl
@[simp] theorem State.resultZNV_ar (s : State) (t : BitVec 4) (r : Word) (b : Bool) : (s.resultZNV t r b).ar = s.ar := rfl
@[simp] theorem State.resultZNV_pc (s : State) (t : BitVec 4) (r : Word) (b : Bool) : (s.resultZNV t r b).pc = s.pc := rfl
@[simp] theorem State.resultZNV_lr (s : State) (t : BitVec 4) (r : Word) (b : Bool) : (s.resultZNV t r b).lr = s.lr := rfl
@[simp] theorem State.resultZNV_ssp (s : State) (t : BitVec 4) (r : Word) (b : Bool) : (s.resultZNV t r b).ssp = s.ssp := rfl
@[simp] theorem State.resultZNV_sr3 (s : State) (t : BitVec 4) (r : Word) (b : Bool) : (s.resultZNV t r b).sr3 = s.sr3 := rfl
@[simp] theorem State.resultZNV_flags (s : State) (t : BitVec 4) (r : Word) (b : Bool) : (s.resultZNV t r b).flags = flagsZNV r b s.flags := rfl
@[simp] theorem State.resultZNV_bank (s : State) (t : BitVec 4) (r : Word) (b : Bool) : (s.resultZNV t r b).bank = s.bank := rfl
@[simp] theorem State.resultZNV_loaded (s : State) (t : BitVec 4) (r : Word) (b : Bool) : (s.resultZNV t r b).loaded = s.loaded := rfl
@[simp] theorem State.resultZNV_csr (s : State) (t : BitVec 4) (r : Word) (b : Bool) : (s.resultZNV t r b).csr = s.csr := rfl
@[simp] theorem State.resultZNV_halted (s : State) (t : BitVec 4) (r : Word) (b : Bool) : (s.resultZNV t r b).halted = s.halted := rfl
@[simp] theorem State.resultZNV_mem (s : State) (t : BitVec 4) (r : Word) (b : Bool) : (s.resultZNV t r b).mem = s.mem := rfl
@[simp] theorem State.resultZNV_stored (s : State) (t : BitVec 4) (r : Word) (b : Bool) : (s.resultZNV t r b).stored = s.stored := rfl
@[simp] theorem State.resultZNV_draws (s : State) (t : BitVec 4) (r : Word) (b : Bool) : (s.resultZNV t r b).draws = s.draws := rfl

@[simp] theorem State.resultZNC_params (s : State) (t : BitVec 4) (r : Word) (c : Bool) : (s.resultZNC t r c).params = s.params := rfl
@[simp] theorem State.resultZNC_dr (s : State) (t : BitVec 4) (r : Word) (c : Bool) : (s.resultZNC t r c).dr = (s.setDr t r).dr := rfl
@[simp] theorem State.resultZNC_ar (s : State) (t : BitVec 4) (r : Word) (c : Bool) : (s.resultZNC t r c).ar = s.ar := rfl
@[simp] theorem State.resultZNC_pc (s : State) (t : BitVec 4) (r : Word) (c : Bool) : (s.resultZNC t r c).pc = s.pc := rfl
@[simp] theorem State.resultZNC_lr (s : State) (t : BitVec 4) (r : Word) (c : Bool) : (s.resultZNC t r c).lr = s.lr := rfl
@[simp] theorem State.resultZNC_ssp (s : State) (t : BitVec 4) (r : Word) (c : Bool) : (s.resultZNC t r c).ssp = s.ssp := rfl
@[simp] theorem State.resultZNC_sr3 (s : State) (t : BitVec 4) (r : Word) (c : Bool) : (s.resultZNC t r c).sr3 = s.sr3 := rfl
@[simp] theorem State.resultZNC_flags (s : State) (t : BitVec 4) (r : Word) (c : Bool) : (s.resultZNC t r c).flags = flagsZNC r c s.flags := rfl
@[simp] theorem State.resultZNC_bank (s : State) (t : BitVec 4) (r : Word) (c : Bool) : (s.resultZNC t r c).bank = s.bank := rfl
@[simp] theorem State.resultZNC_loaded (s : State) (t : BitVec 4) (r : Word) (c : Bool) : (s.resultZNC t r c).loaded = s.loaded := rfl
@[simp] theorem State.resultZNC_csr (s : State) (t : BitVec 4) (r : Word) (c : Bool) : (s.resultZNC t r c).csr = s.csr := rfl
@[simp] theorem State.resultZNC_halted (s : State) (t : BitVec 4) (r : Word) (c : Bool) : (s.resultZNC t r c).halted = s.halted := rfl
@[simp] theorem State.resultZNC_mem (s : State) (t : BitVec 4) (r : Word) (c : Bool) : (s.resultZNC t r c).mem = s.mem := rfl
@[simp] theorem State.resultZNC_stored (s : State) (t : BitVec 4) (r : Word) (c : Bool) : (s.resultZNC t r c).stored = s.stored := rfl
@[simp] theorem State.resultZNC_draws (s : State) (t : BitVec 4) (r : Word) (c : Bool) : (s.resultZNC t r c).draws = s.draws := rfl

/-! ## Reading a register after a write -/

@[simp] theorem State.getDr_setDr_self (s : State) (i : BitVec 4) (v : Word) : (s.setDr i v).getDr i = v := by
  simp [State.getDr, State.setDr]

theorem State.getDr_setDr_ne (s : State) {i j : BitVec 4} (v : Word) (h : i ≠ j) :
    (s.setDr i v).getDr j = s.getDr j := by
  have : i.toNat ≠ j.toNat := fun e => h (BitVec.eq_of_toNat_eq e)
  simp [State.getDr, State.setDr, this]

@[simp] theorem State.getAr_setAr_self (s : State) (i : BitVec 2) (v : Addr) : (s.setAr i v).getAr i = v := by
  simp [State.getAr, State.setAr]

theorem State.getAr_setAr_ne (s : State) {i j : BitVec 2} (v : Addr) (h : i ≠ j) :
    (s.setAr i v).getAr j = s.getAr j := by
  have : i.toNat ≠ j.toNat := fun e => h (BitVec.eq_of_toNat_eq e)
  simp [State.getAr, State.setAr, this]

@[simp] theorem State.getAr_setDr (s : State) (k : BitVec 4) (v : Word) (j : BitVec 2) : (s.setDr k v).getAr j = s.getAr j := rfl
@[simp] theorem State.getDr_setAr (s : State) (k : BitVec 2) (v : Addr) (j : BitVec 4) : (s.setAr k v).getDr j = s.getDr j := rfl
@[simp] theorem State.getDr_setSr_pc (s : State) (v : Addr) (j : BitVec 4) : (s.setSr .pc v).getDr j = s.getDr j := rfl
@[simp] theorem State.getAr_setSr_pc (s : State) (v : Addr) (j : BitVec 2) : (s.setSr .pc v).getAr j = s.getAr j := rfl
@[simp] theorem State.getDr_setSr_lr (s : State) (v : Addr) (j : BitVec 4) : (s.setSr .lr v).getDr j = s.getDr j := rfl
@[simp] theorem State.getAr_setSr_lr (s : State) (v : Addr) (j : BitVec 2) : (s.setSr .lr v).getAr j = s.getAr j := rfl
@[simp] theorem State.getDr_setSr_ssp (s : State) (v : Addr) (j : BitVec 4) : (s.setSr .ssp v).getDr j = s.getDr j := rfl
@[simp] theorem State.getAr_setSr_ssp (s : State) (v : Addr) (j : BitVec 2) : (s.setSr .ssp v).getAr j = s.getAr j := rfl
@[simp] theorem State.getDr_withFlags (s : State) (f : Flags) (j : BitVec 4) : (s.withFlags f).getDr j = s.getDr j := rfl
@[simp] theorem State.getAr_withFlags (s : State) (f : Flags) (j : BitVec 2) : (s.withFlags f).getAr j = s.getAr j := rfl
@[simp] theorem State.getDr_resultZ (s : State) (t : BitVec 4) (r : Word) (j : BitVec 4) : (s.resultZ t r).getDr j = (s.setDr t r).getDr j := rfl
@[simp] theorem State.getAr_resultZ (s : State) (t : BitVec 4) (r : Word) (j : BitVec 2) : (s.resultZ t r).getAr j = s.getAr j := rfl
@[simp] theorem State.getDr_resultZC (s : State) (t : BitVec 4) (r : Word) (c : Bool) (j : BitVec 4) : (s.resultZC t r c).getDr j = (s.setDr t r).getDr j := rfl
@[simp] theorem State.getAr_resultZC (s : State) (t : BitVec 4) (r : Word) (c : Bool) (j : BitVec 2) : (s.resultZC t r c).getAr j = s.getAr j := rfl
@[simp] theorem State.getDr_resultZN (s : State) (t : BitVec 4) (r : Word) (j : BitVec 4) : (s.resultZN t r).getDr j = (s.setDr t r).getDr j := rfl
@[simp] theorem State.getAr_resultZN (s : State) (t : BitVec 4) (r : Word) (j : BitVec 2) : (s.resultZN t r).getAr j = s.getAr j := rfl
@[simp] theorem State.getDr_resultZNV (s : State) (t : BitVec 4) (r : Word) (b : Bool) (j : BitVec 4) : (s.resultZNV t r b).getDr j = (s.setDr t r).getDr j := rfl
@[simp] theorem State.getAr_resultZNV (s : State) (t : BitVec 4) (r : Word) (b : Bool) (j : BitVec 2) : (s.resultZNV t r b).getAr j = s.getAr j := rfl
@[simp] theorem State.getDr_resultZNC (s : State) (t : BitVec 4) (r : Word) (c : Bool) (j : BitVec 4) : (s.resultZNC t r c).getDr j = (s.setDr t r).getDr j := rfl
@[simp] theorem State.getAr_resultZNC (s : State) (t : BitVec 4) (r : Word) (c : Bool) (j : BitVec 2) : (s.resultZNC t r c).getAr j = s.getAr j := rfl

@[simp] theorem State.getSr_pc (s : State) : s.getSr .pc = s.pc := rfl
@[simp] theorem State.getSr_lr (s : State) : s.getSr .lr = s.lr := rfl
@[simp] theorem State.getSr_ssp (s : State) : s.getSr .ssp = s.ssp := rfl

end Sys2Proof.Machine
end

