-- ==== Sys2Proof/Laws/Ops.lean ====
section
/-!
SUPPORT. One lemma per shared operation that says once everything the operation can do when it answers a next
state; the proofs about instructions cite these and do not unfold the operations.
-/

namespace Sys2Proof.Machine

/-! ## Sequencing -/

@[simp] theorem andThen_next {α β : Type} (a : α) (f : α → Run β) : andThen (.next a) f = f a := rfl
@[simp] theorem andThen_fault {α β : Type} (r : Fault) (f : α → Run β) : andThen (.fault r) f = .fault r := rfl
@[simp] theorem andThen_refused {α β : Type} (r : Refusal) (f : α → Run β) :
    andThen (.refused r) f = .refused r := rfl

theorem andThen_eq_next {α β : Type} {x : Run α} {f : α → Run β} {b : β} :
    andThen x f = .next b ↔ ∃ a, x = .next a ∧ f a = .next b := by
  cases x <;> simp

theorem andThen_eq_fault {α β : Type} {x : Run α} {f : α → Run β} {r : Fault} :
    andThen x f = .fault r ↔ x = .fault r ∨ ∃ a, x = .next a ∧ f a = .fault r := by
  cases x <;> simp

/-! ## The end of a step -/

theorem completeAt_eq_next {a : Addr} {s t : State} :
    completeAt a s = .next t ↔ t = { s with pc := a, loaded := noneLoaded } := by
  simp [completeAt, eq_comm]

theorem complete_eq_next {s t : State} :
    complete s = .next t ↔ t = { s with pc := add48 s.pc 1, loaded := noneLoaded } := by
  simp [complete, completeAt, eq_comm]

theorem completeLui_eq_next {s t : State} : completeLui s = .next t ↔ t = { s with pc := add48 s.pc 1 } := by
  simp [completeLui, eq_comm]

theorem completeSr_eq_next {r : SpecialReg} {v : Addr} {s t : State} :
    completeSr r v s = .next t ↔
      (r = .pc ∧ t = { s with pc := v, loaded := noneLoaded }) ∨
      (r = .lr ∧ t = { s with lr := v, pc := add48 s.pc 1, loaded := noneLoaded }) ∨
      (r = .ssp ∧ t = { s with ssp := v, pc := add48 s.pc 1, loaded := noneLoaded }) := by
  cases r <;> simp [completeSr, completeAt_eq_next, complete_eq_next, State.setSr]

/-! ## Checks -/

theorem needUimm_eq_next {bs : List (Fin 3)} {s t : State} {go : Run State} :
    needUimm bs s go = .next t ↔ (bs.all fun b => s.loaded[b]) = true ∧ go = .next t := by
  unfold needUimm
  split
  · next h => simp only [h, true_and]
  · next h => simp only [h, false_and, reduceCtorEq]

theorem needUimm_of_notLoaded {bs : List (Fin 3)} {s : State} {go : Run State} {b : Fin 3} (hb : b ∈ bs)
    (h : s.loaded[b] = false) : needUimm bs s go = .fault .uimmNotLoaded := by
  have : (bs.all fun b => s.loaded[b]) = false := by
    rw [List.all_eq_false]; exact ⟨b, hb, by simp [h]⟩
  simp only [needUimm, this, Bool.false_eq_true, if_false]

theorem whenCond_eq_next {cc : BitVec 4} {s t : State} {yes no : Run State} :
    whenCond cc s yes no = .next t ↔
      (ccHolds s.params cc s.flags = some true ∧ yes = .next t) ∨
      (ccHolds s.params cc s.flags = some false ∧ no = .next t) := by
  unfold whenCond; split <;> simp [*]

theorem withSr_eq_next {i : Instr} {code : BitVec 2} {s t : State} {go : SpecialReg → Run State} :
    withSr i code s go = .next t ↔ ∃ r, s.params.specialReg code = some r ∧ go r = .next t := by
  unfold withSr; split <;> simp [*]

/-! ## Memory accesses -/

theorem memRead_eq_next {a : Addr} {s : State} {v : Word} :
    memRead a s = .next v ↔ memAdmits s.params a .read = true ∧ readCell s.mem a.toNat = some v := by
  unfold memRead
  split
  · split <;> simp [*]
  · simp [*]

theorem memWrite_eq_next {a : Addr} {v : Word} {s t : State} :
    memWrite a v s = .next t ↔
      memAdmits s.params a .write = true ∧
      t = { s with mem := writeCell s.mem a.toNat v, stored := addAddress s.stored a.toNat } := by
  unfold memWrite; split <;> simp [*, eq_comm]

theorem memReadWide_eq_next {a : Addr} {s : State} {v : Addr} :
    memReadWide a s = .next v ↔
      ∃ x y, memRead a s = .next x ∧ memRead (add48 a 1) s = .next y ∧ v = joinCells s.params x y := by
  simp only [memReadWide, andThen_eq_next]
  constructor
  · rintro ⟨x, hx, y, hy, h⟩
    exact ⟨x, y, hx, hy, by simpa using h.symm⟩
  · rintro ⟨x, y, hx, hy, rfl⟩
    exact ⟨x, hx, y, hy, rfl⟩

theorem memWriteWide_eq_next {a v : Addr} {s t : State} :
    memWriteWide a v s = .next t ↔
      memAdmits s.params a .write = true ∧ memAdmits s.params (add48 a 1) .write = true ∧
      t = { s with
        mem := writeCell (writeCell s.mem a.toNat (firstCell s.params v)) (add48 a 1).toNat (secondCell s.params v)
        stored := addAddress (addAddress s.stored a.toNat) (add48 a 1).toNat } := by
  simp only [memWriteWide, andThen_eq_next, memWrite_eq_next]
  constructor
  · rintro ⟨u, ⟨h1, rfl⟩, h2, rfl⟩; exact ⟨h1, h2, rfl⟩
  · rintro ⟨h1, h2, rfl⟩; exact ⟨_, ⟨h1, rfl⟩, h2, rfl⟩

/-- How a one-cell read stops. -/
theorem memRead_eq_fault {a : Addr} {s : State} {r : Fault} :
    memRead a s = .fault r ↔
      (memAdmits s.params a .read = false ∧ Fault.noMemory a = r) ∨
      (memAdmits s.params a .read = true ∧ readCell s.mem a.toNat = none ∧ Fault.unwrittenMemory a = r) := by
  unfold memRead
  split
  · split <;> simp [*]
  · simp_all

/-- How a one-cell write stops. -/
theorem memWrite_eq_fault {a : Addr} {v : Word} {s : State} {r : Fault} :
    memWrite a v s = .fault r ↔ memAdmits s.params a .write = false ∧ Fault.noMemory a = r := by
  unfold memWrite; split <;> simp_all

/-- How a two-cell read stops: at the first cell, or at the second once the first has been read. -/
theorem memReadWide_eq_fault {a : Addr} {s : State} {r : Fault} :
    memReadWide a s = .fault r ↔
      memRead a s = .fault r ∨ ∃ x, memRead a s = .next x ∧ memRead (add48 a 1) s = .fault r := by
  simp [memReadWide, andThen_eq_fault]

/-- How a two-cell write stops: at the first cell, or at the second where the first is admitted. -/
theorem memWriteWide_eq_fault {a v : Addr} {s : State} {r : Fault} :
    memWriteWide a v s = .fault r ↔
      (memAdmits s.params a .write = false ∧ Fault.noMemory a = r) ∨
      (memAdmits s.params a .write = true ∧ memAdmits s.params (add48 a 1) .write = false ∧
        Fault.noMemory (add48 a 1) = r) := by
  simp only [memWriteWide, andThen_eq_fault, memWrite_eq_next, memWrite_eq_fault]
  constructor
  · rintro (h | ⟨u, ⟨h, rfl⟩, h', rfl⟩)
    · exact .inl h
    · exact .inr ⟨h, h', rfl⟩
  · rintro (h | ⟨h, h', rfl⟩)
    · exact .inl h
    · exact .inr ⟨_, ⟨h, rfl⟩, h', rfl⟩

theorem fetch_eq_next {s : State} {w : Word} :
    fetch s = .next w ↔
      memAdmits s.params s.pc .fetch = true ∧ readCell s.mem s.pc.toNat = some w ∧
      (s.params.ifetchCoherent = true ∨ s.pc.toNat ∉ s.stored) := by
  unfold fetch
  split
  · split
    · split
      · simp [*]
      · split <;> simp_all
    · simp [*]
  · simp [*]

/-! ## Control registers -/

@[simp] theorem csrDraw_params (n : BitVec 8) (s : State) : (csrDraw n s).params = s.params := by
  unfold csrDraw; split <;> rfl

theorem csrDraw_of_plain {n : BitVec 8} {s : State} (h : csrIsHooked s.params n = false) : csrDraw n s = s := by
  simp [csrDraw, h]

theorem csrDraw_cases (n : BitVec 8) (s : State) :
    csrDraw n s = s ∨ csrDraw n s = { s with draws := s.draws + 1 } := by
  unfold csrDraw; split <;> simp

theorem csrWrite_cases (n : BitVec 8) (v : Word) (s : State) :
    csrWrite n v s = s ∨ csrWrite n v s = { s with csr := s.csr.set n.toNat v n.isLt } := by
  unfold csrWrite; split <;> simp

theorem csrRead_csrWrite {n : BitVec 8} {v : Word} {s : State} (h : csrIsHooked s.params n = false) :
    csrRead n (csrWrite n v s) = v := by
  simp [csrRead, csrWrite, h]

/-! ## Linkage -/

/-- Everything the link sequence can do: it moves SSP down by 2, stores the old LR there and leaves PC in LR. -/
theorem link_eq_next {s t : State} :
    link s = .next t ↔
      ∃ u, memWriteWide (sub48 s.ssp 2) s.lr { s with ssp := sub48 s.ssp 2 } = .next u ∧
        t = { u with lr := u.pc } := by
  have h0 : ∀ a : Addr, offsetAddr a (0 : BitVec 12) = a := by
    intro a; simp [offsetAddr, add48, sext48]
  simp only [link, State.getSr_ssp, h0, State.setSr_ssp_ssp, State.getSr_lr, State.setSr_ssp_lr, andThen_eq_next]
  constructor
  · rintro ⟨u, hu, h⟩
    exact ⟨u, hu, by simpa [State.setSr, eq_comm] using h⟩
  · rintro ⟨u, hu, rfl⟩
    exact ⟨u, hu, rfl⟩

/-- How the link sequence stops: as its store of the old LR does. -/
theorem link_eq_fault {s : State} {r : Fault} :
    link s = .fault r ↔ memWriteWide (sub48 s.ssp 2) s.lr { s with ssp := sub48 s.ssp 2 } = .fault r := by
  have h0 : ∀ a : Addr, offsetAddr a (0 : BitVec 12) = a := by
    intro a; simp [offsetAddr, add48, sext48]
  simp only [link, State.getSr_ssp, h0, State.setSr_ssp_ssp, State.getSr_lr, State.setSr_ssp_lr, andThen_eq_fault,
    reduceCtorEq, and_false, exists_false, or_false]
  rfl

end Sys2Proof.Machine
end

