-- ==== Sys2Proof/Laws/Safety.lean ====
section
/-!
SUPPORT. The small lemmas of the terms claims are stated in: the access each instruction makes, the cells it stores to,
and how an instruction that begins with an access stops at it.
-/

namespace Sys2Proof.Machine

/-! ## The access of each instruction (R57) -/

section
variable (s : State)

@[simp] theorem dataAccess_ldur (t : BitVec 4) (b : BitVec 2) :
    dataAccess s (.ldur t b) = some (.read (s.getAr b)) := rfl
@[simp] theorem dataAccess_stur (t : BitVec 2) (u : BitVec 4) :
    dataAccess s (.stur t u) = some (.write (s.getAr t)) := rfl
@[simp] theorem dataAccess_stui (t : BitVec 2) (imm : BitVec 12) :
    dataAccess s (.stui t imm) = some (.write (s.getAr t)) := rfl
@[simp] theorem dataAccess_stsi (t : BitVec 2) (imm : BitVec 14) :
    dataAccess s (.stsi t imm) = some (.write (s.getAr t)) := rfl
@[simp] theorem dataAccess_ldso (t : BitVec 4) (b : BitVec 2) (imm : BitVec 10) :
    dataAccess s (.ldso t b imm) = some (.read (s.getAr b + BitVec.ofInt 48 imm.toInt)) := rfl
@[simp] theorem dataAccess_stso (t : BitVec 2) (u : BitVec 4) (imm : BitVec 10) :
    dataAccess s (.stso t u imm) = some (.write (s.getAr t + BitVec.ofInt 48 imm.toInt)) := rfl
@[simp] theorem dataAccess_ldaso (t b : BitVec 2) (imm : BitVec 12) :
    dataAccess s (.ldaso t b imm) = some (.wideRead (s.getAr b + BitVec.ofInt 48 imm.toInt)) := rfl
@[simp] theorem dataAccess_staso (t b : BitVec 2) (imm : BitVec 12) :
    dataAccess s (.staso t b imm) = some (.wideWrite (s.getAr t + BitVec.ofInt 48 imm.toInt)) := rfl
@[simp] theorem dataAccess_pushur (t : BitVec 2) (u : BitVec 4) :
    dataAccess s (.pushur t u) = some (.write (s.getAr t - 1)) := rfl
@[simp] theorem dataAccess_pushaur (t b : BitVec 2) :
    dataAccess s (.pushaur t b) = some (.wideWrite (s.getAr t - 2)) := rfl
@[simp] theorem dataAccess_popur (d : BitVec 4) (b : BitVec 2) :
    dataAccess s (.popur d b) = some (.read (s.getAr b)) := rfl
@[simp] theorem dataAccess_popaur (t b : BitVec 2) : dataAccess s (.popaur t b) = some (.wideRead (s.getAr b)) := rfl
@[simp] theorem dataAccess_jsrur (t : BitVec 2) : dataAccess s (.jsrur t) = some (.wideWrite (s.ssp - 2)) := rfl
@[simp] theorem dataAccess_jsrui (imm : BitVec 12) : dataAccess s (.jsrui imm) = some (.wideWrite (s.ssp - 2)) := rfl
@[simp] theorem dataAccess_bsrsr (d : BitVec 4) : dataAccess s (.bsrsr d) = some (.wideWrite (s.ssp - 2)) := rfl
@[simp] theorem dataAccess_bsrso (imm : BitVec 16) : dataAccess s (.bsrso imm) = some (.wideWrite (s.ssp - 2)) := rfl
@[simp] theorem dataAccess_ret : dataAccess s .ret = some (.wideRead s.ssp) := rfl
theorem dataAccess_srstso (t u : BitVec 2) (imm : BitVec 12) : dataAccess s (.srstso t u imm) =
    (s.params.specialReg t).map fun r => .wideWrite (s.getSr r + BitVec.ofInt 48 imm.toInt) := rfl
theorem dataAccess_srldso (t u : BitVec 2) (imm : BitVec 12) : dataAccess s (.srldso t u imm) =
    (s.params.specialReg u).map fun r => .wideRead (s.getSr r + BitVec.ofInt 48 imm.toInt) := rfl

/-- An instruction outside the list of R57 makes no access. -/
theorem dataAccess_of_not_accessesMemory {i : Instr} (h : accessesMemory i = false) : dataAccess s i = none := by
  cases i <;> first | rfl | cases h

/-- An instruction outside R57's list of stores stores to no cell. -/
theorem storedCells_of_not_writesMemory {i : Instr} (h : writesMemory i = false) : storedCells i s = [] := by
  cases i
  case srldso t u imm =>
    unfold storedCells
    rw [dataAccess_srldso]
    cases s.params.specialReg u <;> rfl
  all_goals first | (cases h; done) | rfl

theorem storedCells_eq_of_dataAccess {i : Instr} {x : Access} (h : dataAccess s i = some x) :
    storedCells i s = x.written := by
  simp only [storedCells, h]

end

/-! ## How an instruction stops at its first access (R58, R272) -/

theorem stopsAtRead_andThen {a : Addr} {s : State} {f : Word → Run State} :
    StopsAtRead (andThen (memRead a s) f) s a := by
  refine ⟨fun h => ?_, fun h h' => ?_⟩
  · rw [memRead_eq_fault.2 (.inl ⟨h, rfl⟩), andThen_fault]
  · rw [memRead_eq_fault.2 (.inr ⟨h, h', rfl⟩), andThen_fault]

theorem stopsAtWrite_andThen {a : Addr} {v : Word} {s : State} {f : State → Run State} :
    StopsAtWrite (andThen (memWrite a v s) f) s a := by
  intro h
  rw [memWrite_eq_fault.2 ⟨h, rfl⟩, andThen_fault]

theorem stopsAtWideRead_andThen {a : Addr} {s : State} {f : Addr → Run State} :
    StopsAtWideRead (andThen (memReadWide a s) f) s a := by
  have stop {r : Fault} (h : memReadWide a s = .fault r) : andThen (memReadWide a s) f = .fault r := by
    rw [h, andThen_fault]
  refine ⟨⟨fun h => ?_, fun h h' => ?_⟩, fun h hs => ?_⟩
  · exact stop (memReadWide_eq_fault.2 (.inl (memRead_eq_fault.2 (.inl ⟨h, rfl⟩))))
  · exact stop (memReadWide_eq_fault.2 (.inl (memRead_eq_fault.2 (.inr ⟨h, h', rfl⟩))))
  · obtain ⟨w, hw⟩ := Option.isSome_iff_exists.1 hs
    have read := memRead_eq_next.2 ⟨h, hw⟩
    exact ⟨fun h2 => stop (memReadWide_eq_fault.2 (.inr ⟨w, read, memRead_eq_fault.2 (.inl ⟨h2, rfl⟩)⟩)),
      fun h2 h3 => stop (memReadWide_eq_fault.2 (.inr ⟨w, read, memRead_eq_fault.2 (.inr ⟨h2, h3, rfl⟩)⟩))⟩

theorem stopsAtWideWrite_andThen {a v : Addr} {s : State} {f : State → Run State} :
    StopsAtWideWrite (andThen (memWriteWide a v s) f) s a := by
  refine ⟨fun h => ?_, fun h h' => ?_⟩
  · rw [memWriteWide_eq_fault.2 (.inl ⟨h, rfl⟩), andThen_fault]
  · rw [memWriteWide_eq_fault.2 (.inr ⟨h, h', rfl⟩), andThen_fault]; rfl

/-- A call stops as the store of the old LR below SSP does. -/
theorem stopsAtWideWrite_link {s : State} {f : State → Run State} :
    StopsAtWideWrite (andThen (link s) f) s (s.ssp - 2) := by
  refine ⟨fun h => ?_, fun h h' => ?_⟩
  · rw [link_eq_fault.2 (memWriteWide_eq_fault.2 (.inl ⟨h, rfl⟩)), andThen_fault]; rfl
  · rw [link_eq_fault.2 (memWriteWide_eq_fault.2 (.inr ⟨h, h', rfl⟩)), andThen_fault]; rfl

/-! ## Words that select no instruction (R12, R76 to R79) -/

/-- A step that fetches a word which selects no instruction ends in that word's outcome. -/
theorem step_of_decode_error {s : State} {w : Word} {cause : ReservedCause} (h : s.halted = false)
    (hf : fetch s = .next w) (hd : decode s.params w = .error cause) : step s = raiseReserved w cause := by
  simp [step, h, hf, hd]

end Sys2Proof.Machine
end

