-- ==== Sys2Proof/Tests/Slice0.lean ====
section
/-!
SUPPORT. Tests. The words, start states and results of the decode and step tests are those of
`spec/95_test_vectors.md` (2.1 to 2.3), which the spec derives from its rules by hand; a witness shows that the
hypotheses of a statement can be met.
-/

open Sys2Proof.Machine

namespace Sys2Proof.Tests

/-! ## Small states -/

/-- Reset, with the PC moved and a word there. -/
def start (pc : Addr) (w : Word) : State :=
  { State.reset with pc := pc, mem := writeCell [] pc.toNat w }

/-- Flags from the spec's notation ZCNV. -/
def zcnv (b : BitVec 4) : Flags := { z := b.getLsbD 3, c := b.getLsbD 2, n := b.getLsbD 1, v := b.getLsbD 0 }

def withBank (s : State) (x : Fin 3) (v : Bank) : State :=
  { s with bank := s.bank.set x v, loaded := s.loaded.set x true }

def withCell (s : State) (a : Addr) (v : Word) : State := { s with mem := writeCell s.mem a.toNat v }

def withCsr (s : State) (n : Fin 256) (v : Word) : State := { s with csr := s.csr.set n v }

def withLr (s : State) (v : Addr) : State := { s with lr := v }

def withSsp (s : State) (v : Addr) : State := { s with ssp := v }

def withParams (s : State) (p : Params) : State := { s with params := p }

/-- The default parameters, with the micro-operations fetchable. -/
def uopParams : Params := { defaultParams with uopClassFetchable := true }

/-- The default parameters, with one cell rejected for one kind of access. -/
def holeParams (kind : AccessKind) (a : Nat) : Params :=
  { defaultParams with holes := [{ kind := kind, lo := a, hi := a }] }

/-- The outcome is a next state of which `post` holds. -/
def ends (x : Host.Outcome State Fault Refusal) (post : State → Bool) : Bool :=
  match x with
  | .next t => post t
  | .fault _ => false
  | .refused _ => false

/-- The outcome is this fault. -/
def faults (x : Host.Outcome State Fault Refusal) (f : Fault) : Bool :=
  match x with
  | .next _ => false
  | .fault g => decide (g = f)
  | .refused _ => false

/-- The outcome is this refusal. -/
def refuses (x : Host.Outcome State Fault Refusal) (r : Refusal) : Bool :=
  match x with
  | .next _ => false
  | .fault _ => false
  | .refused q => decide (q = r)

/-! ## Well-formedness refuses an ill-formed term, for each check -/

theorem test_wellFormed_bank : (Instr.luiui 3 0x123).wellFormed defaultParams = false := by decide
theorem test_wellFormed_target : (Instr.srmovur 3 1).wellFormed defaultParams = false := by decide
theorem test_wellFormed_source : (Instr.srmovur 1 3).wellFormed defaultParams = false := by decide
theorem test_wellFormed_uops :
    (Instr.srmovaur 3 0).wellFormed defaultParams = false ∧ (Instr.srjccso 3 14 0).wellFormed defaultParams = false ∧
    (Instr.sraddsi 3 1).wellFormed defaultParams = false ∧ (Instr.srsubsi 3 1).wellFormed defaultParams = false ∧
    (Instr.srstso 3 1 0).wellFormed defaultParams = false ∧ (Instr.srstso 2 3 0).wellFormed defaultParams = false ∧
    (Instr.srldso 3 2 0).wellFormed defaultParams = false ∧ (Instr.srldso 1 3 0).wellFormed defaultParams = false := by
  decide
theorem test_wellFormed_accepts :
    (Instr.luiui 2 0x123).wellFormed defaultParams = true ∧ (Instr.srldso 1 2 0).wellFormed defaultParams = true := by
  decide

/-! ## Decoding: a word of the spec for every instruction -/

theorem test_decode_opclass0 :
    decode defaultParams 0x000000 = .ok (.nop) ∧
    decode defaultParams 0x012100 = .ok (.movur 2 1) ∧
    decode defaultParams 0x0243E0 = .ok (.mccur 4 3 14) ∧
    decode defaultParams 0x032100 = .ok (.addur 2 1) ∧
    decode defaultParams 0x042100 = .ok (.subur 2 1) ∧
    decode defaultParams 0x051000 = .ok (.notur 1) ∧
    decode defaultParams 0x062100 = .ok (.andur 2 1) ∧
    decode defaultParams 0x072100 = .ok (.orur 2 1) ∧
    decode defaultParams 0x082100 = .ok (.xorur 2 1) ∧
    decode defaultParams 0x092100 = .ok (.shlur 2 1) ∧
    decode defaultParams 0x0A2100 = .ok (.rolur 2 1) ∧
    decode defaultParams 0x0B2100 = .ok (.shrur 2 1) ∧
    decode defaultParams 0x0C2100 = .ok (.rorur 2 1) ∧
    decode defaultParams 0x0D2100 = .ok (.cmpur 2 1) ∧
    decode defaultParams 0x0E9000 = .ok (.tstur 9) := by decide

theorem test_decode_opclass1 :
    decode defaultParams 0x108123 = .ok (.luiui 2 0x123) ∧
    decode defaultParams 0x111DEF = .ok (.movui 1 0xDEF) ∧
    decode defaultParams 0x131345 = .ok (.addui 1 0x345) ∧
    decode defaultParams 0x141456 = .ok (.subui 1 0x456) ∧
    decode defaultParams 0x1610FF = .ok (.andui 1 0xFF) ∧
    decode defaultParams 0x17100F = .ok (.orui 1 0xF) ∧
    decode defaultParams 0x181456 = .ok (.xorui 1 0x456) ∧
    decode defaultParams 0x19101F = .ok (.shlui 1 0x1F) ∧
    decode defaultParams 0x1A1018 = .ok (.rolui 1 0x18) ∧
    decode defaultParams 0x1B1018 = .ok (.shrui 1 0x18) ∧
    decode defaultParams 0x1C101C = .ok (.rorui 1 0x1C) ∧
    decode defaultParams 0x1D1457 = .ok (.cmpui 1 0x457) := by decide

theorem test_decode_opclass2 :
    decode defaultParams 0x232100 = .ok (.addsr 2 1) ∧
    decode defaultParams 0x242100 = .ok (.subsr 2 1) ∧
    decode defaultParams 0x251000 = .ok (.negsr 1) ∧
    decode defaultParams 0x2B2100 = .ok (.shrsr 2 1) ∧
    decode defaultParams 0x2D2100 = .ok (.cmpsr 2 1) ∧
    decode defaultParams 0x2E1000 = .ok (.tstsr 1) := by decide

theorem test_decode_opclass3 :
    decode defaultParams 0x301FFF = .ok (.movsi 1 0xFFF) ∧
    decode defaultParams 0x311E80 = .ok (.mccsi 1 14 0x80) ∧
    decode defaultParams 0x331FFF = .ok (.addsi 1 0xFFF) ∧
    decode defaultParams 0x341001 = .ok (.subsi 1 0x1) ∧
    decode defaultParams 0x3B1004 = .ok (.shrsi 1 0x4) ∧
    decode defaultParams 0x3D1FFF = .ok (.cmpsi 1 0xFFF) := by decide

theorem test_decode_opclass4 :
    decode defaultParams 0x403400 = .ok (.ldur 3 1) ∧
    decode defaultParams 0x419000 = .ok (.stur 2 4) ∧
    decode defaultParams 0x424456 = .ok (.stui 1 0x456) ∧
    decode defaultParams 0x437FFF = .ok (.stsi 1 0x3FFF) := by decide

theorem test_decode_opclass5 :
    decode defaultParams 0x5057FF = .ok (.ldso 5 1 0x3FF) ∧
    decode defaultParams 0x515401 = .ok (.stso 1 5 0x1) ∧
    decode defaultParams 0x529004 = .ok (.ldaso 2 1 0x4) ∧
    decode defaultParams 0x535FFF = .ok (.staso 1 1 0xFFF) := by decide

theorem test_decode_opclass6 :
    decode defaultParams 0x614E00 = .ok (.movaur 1 3 .high) ∧
    decode defaultParams 0x624A00 = .ok (.movdur 4 2 .high) ∧
    decode defaultParams 0x634800 = .ok (.addaur 1 2) ∧
    decode defaultParams 0x644800 = .ok (.subaur 1 2) ∧
    decode defaultParams 0x654800 = .ok (.addasr 1 2) ∧
    decode defaultParams 0x664800 = .ok (.subasr 1 2) ∧
    decode defaultParams 0x67CFFF = .ok (.addasi 3 0xFFF) ∧
    decode defaultParams 0x68C800 = .ok (.subasi 3 0x800) ∧
    decode defaultParams 0x69B100 = .ok (.leaso 2 3 0x100) ∧
    decode defaultParams 0x6A7FFF = .ok (.adraso 1 0x3FFF) ∧
    decode defaultParams 0x6D8000 = .ok (.cmpaur 2 0) ∧
    decode defaultParams 0x6E4000 = .ok (.tstaur 1) := by decide

theorem test_decode_opclass7 :
    decode defaultParams 0x700000 = .ok (.btp) ∧
    decode defaultParams 0x717800 = .ok (.jccur 1 14) ∧
    decode defaultParams 0x72E678 = .ok (.jccui 14 0x678) ∧
    decode defaultParams 0x731E00 = .ok (.bccsr 1 14) ∧
    decode defaultParams 0x741FFE = .ok (.bccso 1 0xFFE) ∧
    decode defaultParams 0x75FFFF = .ok (.balso 0xFFFF) ∧
    decode defaultParams 0x768000 = .ok (.jsrur 2) ∧
    decode defaultParams 0x770000 = .ok (.jsrui 0x0) ∧
    decode defaultParams 0x781000 = .ok (.bsrsr 1) ∧
    decode defaultParams 0x790010 = .ok (.bsrso 0x10) ∧
    decode defaultParams 0x7A0000 = .ok (.ret) := by decide

theorem test_decode_opclass8 :
    decode defaultParams 0x80C400 = .ok (.pushur 3 1) ∧
    decode defaultParams 0x81E000 = .ok (.pushaur 3 2) ∧
    decode defaultParams 0x826C00 = .ok (.popur 6 3) ∧
    decode defaultParams 0x83F000 = .ok (.popaur 3 3) := by decide

theorem test_decode_opclass9 :
    decode defaultParams 0x9060FF = .ok (.csrrd 6 0xFF) ∧
    decode defaultParams 0x911442 = .ok (.csrwr 5 0x42) := by decide

theorem test_decode_opclassA :
    decode defaultParams 0xA00000 = .ok (.srhlt) ∧
    decode defaultParams 0xA1C000 = .ok (.setssp 3) ∧
    decode defaultParams 0xA20FFF = .ok (.swi 0xFFF) := by decide

theorem test_decode_opclassF :
    decode uopParams 0xF04000 = .ok (.srmovur 1 0) ∧
    decode uopParams 0xF1A000 = .ok (.srmovaur 2 2) ∧
    decode uopParams 0xF27801 = .ok (.srjccso 1 14 1) ∧
    decode uopParams 0xF38002 = .ok (.sraddsi 2 2) ∧
    decode uopParams 0xF48002 = .ok (.srsubsi 2 2) ∧
    decode uopParams 0xF59000 = .ok (.srstso 2 1 0) ∧
    decode uopParams 0xF66FFE = .ok (.srldso 1 2 0xFFE) := by decide

/-- Words of the spec's 2.3 that select no instruction, one for each cause. -/
theorem test_decode_reserved :
    decode defaultParams 0x000001 = .error .reservedBits ∧ decode defaultParams 0x671001 = .error .reservedBits ∧
    decode defaultParams 0x914442 = .error .reservedBits ∧ decode defaultParams 0xA21000 = .error .reservedBits ∧
    decode defaultParams 0x120000 = .error .unassignedSubop ∧ decode defaultParams 0x6B0000 = .error .unassignedSubop ∧
    decode uopParams 0xF70000 = .error .unassignedSubop ∧ decode defaultParams 0xC12345 = .error .emptyOpclass ∧
    decode defaultParams 0xF04000 = .error .uopNotFetchable ∧ decode defaultParams 0x10C123 = .error .noSuchBank ∧
    decode uopParams 0xF0C000 = .error .noSpecialRegister := by decide

/-- The host's question of the decoder, and a word that a step runs where it fetches. -/
theorem test_table_word :
    decodeTableWord 24 0x111DEF = some (.movui 1 0xDEF) ∧ decodeTableWord 24 0xF27801 = some (.srjccso 1 14 1) ∧
    ends (step (State.reset.withFetchWord 24 0x301FFF)) (fun t => t.getDr 1 == 0xFFFFFF && t.pc == 0x1001) = true ∧
    ends (step (State.reset.withFetchWord 24 0xF1A000)) (fun t => t.pc == 0x1001) = true := by decide

/-! ## One step of every instruction -/

theorem test_nop :
    ends (step ((start 0x100 0x000000).withFlags (zcnv 0b1111)))
      (fun t => t.flags == zcnv 0b1111 && t.pc == 0x101) = true := by decide
theorem test_movur :
    ends (step (((start 0x100 0x012100).setDr 1 0x000000).setDr 2 0x123456))
      (fun t => t.getDr 2 == 0x000000 && t.flags == zcnv 0b1000 && t.pc == 0x101) = true ∧
    ends (step ((((start 0x100 0x012100).setDr 1 0xABCDEF).setDr 2 0x000000).withFlags (zcnv 0b1111)))
      (fun t => t.getDr 2 == 0xABCDEF && t.flags == zcnv 0b0111 && t.pc == 0x101) = true := by decide
theorem test_mccur :
    ends (step (((start 0x100 0x0243E0).setDr 3 0x000000).setDr 4 0x000005))
      (fun t => t.getDr 4 == 0x000000 && t.flags == zcnv 0b1000 && t.pc == 0x101) = true ∧
    ends (step ((((start 0x100 0x024310).setDr 3 0x000007).setDr 4 0x000005).withFlags (zcnv 0b0100)))
      (fun t => t.getDr 4 == 0x000007 && t.flags == zcnv 0b0100 && t.pc == 0x101) = true := by decide
theorem test_addur :
    ends (step ((((start 0x100 0x032100).setDr 1 0x000001).setDr 2 0x000002).withFlags (zcnv 0b1111)))
      (fun t => t.getDr 2 == 0x000003 && t.flags == zcnv 0b0011 && t.pc == 0x101) = true ∧
    ends (step (((start 0x100 0x032100).setDr 1 0x000001).setDr 2 0xFFFFFF))
      (fun t => t.getDr 2 == 0x000000 && t.flags == zcnv 0b1100 && t.pc == 0x101) = true := by decide
theorem test_subur :
    ends (step (((start 0x100 0x042100).setDr 1 0x000007).setDr 2 0x000005))
      (fun t => t.getDr 2 == 0xFFFFFE && t.flags == zcnv 0b0100 && t.pc == 0x101) = true ∧
    ends (step ((((start 0x100 0x042100).setDr 1 0x000007).setDr 2 0x000007).withFlags (zcnv 0b0100)))
      (fun t => t.getDr 2 == 0x000000 && t.flags == zcnv 0b1000 && t.pc == 0x101) = true := by decide
theorem test_notur :
    ends (step ((start 0x100 0x051000).setDr 1 0xFFFFFF))
      (fun t => t.getDr 1 == 0x000000 && t.flags == zcnv 0b1000 && t.pc == 0x101) = true ∧
    ends (step (((start 0x100 0x051000).setDr 1 0x00FF00).withFlags (zcnv 0b1100)))
      (fun t => t.getDr 1 == 0xFF00FF && t.flags == zcnv 0b0100 && t.pc == 0x101) = true := by decide
theorem test_andur :
    ends (step (((start 0x100 0x062100).setDr 1 0x0F0F0F).setDr 2 0xF0F0F0))
      (fun t => t.getDr 2 == 0x000000 && t.flags == zcnv 0b1000 && t.pc == 0x101) = true ∧
    ends (step ((((start 0x100 0x062100).setDr 1 0xFF00FF).setDr 2 0x123456).withFlags (zcnv 0b1000)))
      (fun t => t.getDr 2 == 0x120056 && t.flags == zcnv 0b0000 && t.pc == 0x101) = true := by decide
theorem test_orur :
    ends (step (((start 0x100 0x072100).setDr 1 0x0F0F0F).setDr 2 0xF0F0F0))
      (fun t => t.getDr 2 == 0xFFFFFF && t.flags == zcnv 0b0000 && t.pc == 0x101) = true ∧
    ends (step (((start 0x100 0x072100).setDr 1 0x000000).setDr 2 0x000000))
      (fun t => t.flags == zcnv 0b1000 && t.pc == 0x101) = true := by decide
theorem test_xorur :
    ends (step (((start 0x100 0x082100).setDr 1 0xFFFFFF).setDr 2 0x123456))
      (fun t => t.getDr 2 == 0xEDCBA9 && t.flags == zcnv 0b0000 && t.pc == 0x101) = true ∧
    ends (step ((start 0x100 0x087700).setDr 7 0xABCDEF))
      (fun t => t.getDr 7 == 0x000000 && t.flags == zcnv 0b1000 && t.pc == 0x101) = true := by decide
theorem test_shlur :
    ends (step ((((start 0x100 0x092100).setDr 1 0x000001).setDr 2 0x800001).withFlags (zcnv 0b1011)))
      (fun t => t.getDr 2 == 0x000002 && t.flags == zcnv 0b0111 && t.pc == 0x101) = true ∧
    ends (step ((((start 0x100 0x092100).setDr 1 0x000017).setDr 2 0x800001).withFlags (zcnv 0b1011)))
      (fun t => t.getDr 2 == 0x800000 && t.flags == zcnv 0b0011 && t.pc == 0x101) = true := by decide
theorem test_rolur :
    ends (step (((start 0x100 0x0A2100).setDr 1 0x000001).setDr 2 0x800001))
      (fun t => t.getDr 2 == 0x000003 && t.flags == zcnv 0b0100 && t.pc == 0x101) = true ∧
    ends (step (((start 0x100 0x0A2100).setDr 1 0x000004).setDr 2 0x800001))
      (fun t => t.getDr 2 == 0x000018 && t.flags == zcnv 0b0000 && t.pc == 0x101) = true := by decide
theorem test_shrur :
    ends (step (((start 0x100 0x0B2100).setDr 1 0x000001).setDr 2 0x800003))
      (fun t => t.getDr 2 == 0x400001 && t.flags == zcnv 0b0100 && t.pc == 0x101) = true ∧
    ends (step (((start 0x100 0x0B2100).setDr 1 0x000002).setDr 2 0x800003))
      (fun t => t.getDr 2 == 0x200000 && t.flags == zcnv 0b0100 && t.pc == 0x101) = true := by decide
theorem test_rorur :
    ends (step (((start 0x100 0x0C2100).setDr 1 0x000001).setDr 2 0x000001))
      (fun t => t.getDr 2 == 0x800000 && t.flags == zcnv 0b0100 && t.pc == 0x101) = true ∧
    ends (step (((start 0x100 0x0C2100).setDr 1 0x000008).setDr 2 0x000001))
      (fun t => t.getDr 2 == 0x010000 && t.flags == zcnv 0b0000 && t.pc == 0x101) = true := by decide
theorem test_cmpur :
    ends (step (((start 0x100 0x0D2100).setDr 1 0x000007).setDr 2 0x000005))
      (fun t => t.flags == zcnv 0b0100 && t.pc == 0x101) = true ∧
    ends (step ((((start 0x100 0x0D2100).setDr 1 0x000005).setDr 2 0x000007).withFlags (zcnv 0b1100)))
      (fun t => t.flags == zcnv 0b0000 && t.pc == 0x101) = true := by decide
theorem test_tstur :
    ends (step ((start 0x100 0x0E9000).setDr 9 0x000000))
      (fun t => t.flags == zcnv 0b1000 && t.pc == 0x101) = true ∧
    ends (step (((start 0x100 0x0E9000).setDr 9 0x800000).withFlags (zcnv 0b1100)))
      (fun t => t.flags == zcnv 0b0100 && t.pc == 0x101) = true := by decide
theorem test_luiui :
    ends (step (start 0x100 0x100ABC))
      (fun t => t.flags == zcnv 0b0000 && t.pc == 0x101 && t.bank[0] == 0xABC && t.loaded[0]) = true ∧
    ends (step (start 0x100 0x108123))
      (fun t => t.flags == zcnv 0b0000 && t.pc == 0x101 && t.bank[2] == 0x123 && t.loaded[2]) = true := by decide
theorem test_movui :
    ends (step (withBank (start 0x100 0x111DEF) 0 0xABC))
      (fun t => t.getDr 1 == 0xABCDEF && t.flags == zcnv 0b0000 && t.pc == 0x101) = true ∧
    ends (step (withBank (start 0x100 0x111000) 0 0x000))
      (fun t => t.getDr 1 == 0x000000 && t.flags == zcnv 0b1000 && t.pc == 0x101) = true := by decide
theorem test_addui :
    ends (step (withBank ((start 0x100 0x131001).setDr 1 0xFFFFFF) 0 0x000))
      (fun t => t.getDr 1 == 0x000000 && t.flags == zcnv 0b1100 && t.pc == 0x101) = true ∧
    ends (step (withBank (((start 0x100 0x131345).setDr 1 0x100000).withFlags (zcnv 0b1100)) 0 0x012))
      (fun t => t.getDr 1 == 0x112345 && t.flags == zcnv 0b0000 && t.pc == 0x101) = true := by decide
theorem test_subui :
    ends (step (withBank ((start 0x100 0x141001).setDr 1 0x000000) 0 0x000))
      (fun t => t.getDr 1 == 0xFFFFFF && t.flags == zcnv 0b0100 && t.pc == 0x101) = true ∧
    ends (step (withBank (((start 0x100 0x141456).setDr 1 0x123456).withFlags (zcnv 0b0100)) 0 0x123))
      (fun t => t.getDr 1 == 0x000000 && t.flags == zcnv 0b1000 && t.pc == 0x101) = true := by decide
theorem test_andui :
    ends (step (withBank ((start 0x100 0x1610FF).setDr 1 0x123456) 0 0xFF0))
      (fun t => t.getDr 1 == 0x120056 && t.flags == zcnv 0b0000 && t.pc == 0x101) = true := by decide
theorem test_orui :
    ends (step (withBank (((start 0x100 0x17100F).setDr 1 0x000000).withFlags (zcnv 0b1000)) 0 0xF00))
      (fun t => t.getDr 1 == 0xF0000F && t.flags == zcnv 0b0000 && t.pc == 0x101) = true := by decide
theorem test_xorui :
    ends (step (withBank ((start 0x100 0x181456).setDr 1 0x123456) 0 0x123))
      (fun t => t.getDr 1 == 0x000000 && t.flags == zcnv 0b1000 && t.pc == 0x101) = true := by decide
theorem test_shlui :
    ends (step ((start 0x100 0x191004).setDr 1 0x123456))
      (fun t => t.getDr 1 == 0x234560 && t.flags == zcnv 0b0100 && t.pc == 0x101) = true ∧
    ends (step ((start 0x100 0x19101F).setDr 1 0xFFFFFF))
      (fun t => t.getDr 1 == 0x000000 && t.flags == zcnv 0b1000 && t.pc == 0x101) = true := by decide
theorem test_rolui :
    ends (step ((start 0x100 0x1A1008).setDr 1 0x123456))
      (fun t => t.getDr 1 == 0x345612 && t.flags == zcnv 0b0000 && t.pc == 0x101) = true ∧
    ends (step ((start 0x100 0x1A1018).setDr 1 0x123457))
      (fun t => t.flags == zcnv 0b0100 && t.pc == 0x101) = true := by decide
theorem test_shrui :
    ends (step ((start 0x100 0x1B1004).setDr 1 0x123458))
      (fun t => t.getDr 1 == 0x012345 && t.flags == zcnv 0b0100 && t.pc == 0x101) = true ∧
    ends (step ((start 0x100 0x1B1018).setDr 1 0x800000))
      (fun t => t.getDr 1 == 0x000000 && t.flags == zcnv 0b1100 && t.pc == 0x101) = true := by decide
theorem test_rorui :
    ends (step ((start 0x100 0x1C1004).setDr 1 0x123458))
      (fun t => t.getDr 1 == 0x812345 && t.flags == zcnv 0b0100 && t.pc == 0x101) = true ∧
    ends (step ((start 0x100 0x1C101C).setDr 1 0x123458))
      (fun t => t.getDr 1 == 0x812345 && t.flags == zcnv 0b0100 && t.pc == 0x101) = true := by decide
theorem test_cmpui :
    ends (step (withBank (((start 0x100 0x1D1456).setDr 1 0x123456).withFlags (zcnv 0b0100)) 0 0x123))
      (fun t => t.flags == zcnv 0b1000 && t.pc == 0x101) = true ∧
    ends (step (withBank ((start 0x100 0x1D1457).setDr 1 0x123456) 0 0x123))
      (fun t => t.flags == zcnv 0b0100 && t.pc == 0x101) = true := by decide
theorem test_addsr :
    ends (step ((((start 0x100 0x232100).setDr 1 0x000001).setDr 2 0x7FFFFF).withFlags (zcnv 0b1100)))
      (fun t => t.getDr 2 == 0x800000 && t.flags == zcnv 0b0111 && t.pc == 0x101) = true ∧
    ends (step ((((start 0x100 0x232100).setDr 1 0xFFFFFF).setDr 2 0x000001).withFlags (zcnv 0b0011)))
      (fun t => t.getDr 2 == 0x000000 && t.flags == zcnv 0b1000 && t.pc == 0x101) = true := by decide
theorem test_subsr :
    ends (step (((start 0x100 0x242100).setDr 1 0x000001).setDr 2 0x800000))
      (fun t => t.getDr 2 == 0x7FFFFF && t.flags == zcnv 0b0001 && t.pc == 0x101) = true ∧
    ends (step ((((start 0x100 0x242100).setDr 1 0x000005).setDr 2 0x000003).withFlags (zcnv 0b0100)))
      (fun t => t.getDr 2 == 0xFFFFFE && t.flags == zcnv 0b0110 && t.pc == 0x101) = true := by decide
theorem test_negsr :
    ends (step ((start 0x100 0x251000).setDr 1 0x000001))
      (fun t => t.getDr 1 == 0xFFFFFF && t.flags == zcnv 0b0010 && t.pc == 0x101) = true ∧
    ends (step (((start 0x100 0x251000).setDr 1 0x000000).withFlags (zcnv 0b0111)))
      (fun t => t.flags == zcnv 0b1100 && t.pc == 0x101) = true := by decide
theorem test_shrsr :
    ends (step (((start 0x100 0x2B2100).setDr 1 0x000001).setDr 2 0x800001))
      (fun t => t.getDr 2 == 0xC00000 && t.flags == zcnv 0b0110 && t.pc == 0x101) = true ∧
    ends (step (((start 0x100 0x2B2100).setDr 1 0x000018).setDr 2 0x800000))
      (fun t => t.getDr 2 == 0xFFFFFF && t.flags == zcnv 0b0110 && t.pc == 0x101) = true := by decide
theorem test_cmpsr :
    ends (step (((start 0x100 0x2D2100).setDr 1 0x000001).setDr 2 0xFFFFFF))
      (fun t => t.flags == zcnv 0b0010 && t.pc == 0x101) = true ∧
    ends (step (((start 0x100 0x2D2100).setDr 1 0x7FFFFF).setDr 2 0x800000))
      (fun t => t.flags == zcnv 0b0001 && t.pc == 0x101) = true := by decide
theorem test_tstsr :
    ends (step (((start 0x100 0x2E1000).setDr 1 0x800000).withFlags (zcnv 0b1101)))
      (fun t => t.flags == zcnv 0b0111 && t.pc == 0x101) = true ∧
    ends (step (((start 0x100 0x2E1000).setDr 1 0x000000).withFlags (zcnv 0b0010)))
      (fun t => t.flags == zcnv 0b1000 && t.pc == 0x101) = true := by decide
theorem test_movsi :
    ends (step (start 0x100 0x301FFF))
      (fun t => t.getDr 1 == 0xFFFFFF && t.flags == zcnv 0b0010 && t.pc == 0x101) = true ∧
    ends (step ((start 0x100 0x3017FF).withFlags (zcnv 0b1111)))
      (fun t => t.getDr 1 == 0x0007FF && t.flags == zcnv 0b0101 && t.pc == 0x101) = true := by decide
theorem test_mccsi :
    ends (step ((start 0x100 0x311E80).setDr 1 0x000005))
      (fun t => t.getDr 1 == 0xFFFF80 && t.flags == zcnv 0b0000 && t.pc == 0x101) = true ∧
    ends (step (((start 0x100 0x311E00).setDr 1 0x000005).withFlags (zcnv 0b0010)))
      (fun t => t.getDr 1 == 0x000000 && t.flags == zcnv 0b1010 && t.pc == 0x101) = true := by decide
theorem test_addsi :
    ends (step ((start 0x100 0x331FFF).setDr 1 0x000000))
      (fun t => t.getDr 1 == 0xFFFFFF && t.flags == zcnv 0b0010 && t.pc == 0x101) = true ∧
    ends (step ((start 0x100 0x3317FF).setDr 1 0x7FF801))
      (fun t => t.getDr 1 == 0x800000 && t.flags == zcnv 0b0011 && t.pc == 0x101) = true := by decide
theorem test_subsi :
    ends (step ((start 0x100 0x341001).setDr 1 0x800000))
      (fun t => t.getDr 1 == 0x7FFFFF && t.flags == zcnv 0b0001 && t.pc == 0x101) = true ∧
    ends (step ((start 0x100 0x341800).setDr 1 0x000000))
      (fun t => t.getDr 1 == 0x000800 && t.flags == zcnv 0b0000 && t.pc == 0x101) = true := by decide
theorem test_shrsi :
    ends (step ((start 0x100 0x3B1004).setDr 1 0xF00008))
      (fun t => t.getDr 1 == 0xFF0000 && t.flags == zcnv 0b0110 && t.pc == 0x101) = true ∧
    ends (step (((start 0x100 0x3B1000).setDr 1 0xF00008).withFlags (zcnv 0b1100)))
      (fun t => t.flags == zcnv 0b1100 && t.pc == 0x101) = true := by decide
theorem test_cmpsi :
    ends (step ((start 0x100 0x3D1FFF).setDr 1 0xFFFFFF))
      (fun t => t.flags == zcnv 0b1000 && t.pc == 0x101) = true ∧
    ends (step ((start 0x100 0x3D1001).setDr 1 0x000000))
      (fun t => t.flags == zcnv 0b0010 && t.pc == 0x101) = true := by decide
theorem test_ldur :
    ends (step (withCell (((start 0x100 0x403400).setAr 1 0x2000).withFlags (zcnv 0b1111)) 0x2000 0xABCDEF))
      (fun t => t.getDr 3 == 0xABCDEF && t.flags == zcnv 0b1111 && t.pc == 0x101) = true ∧
    ends (step (withCell ((start 0x100 0x403400).setAr 1 0xFFFFFFFFFFFF) 0xFFFFFFFFFFFF 0x000000))
      (fun t => t.getDr 3 == 0x000000 && t.flags == zcnv 0b0000 && t.pc == 0x101) = true := by decide
theorem test_stur :
    ends (step (((start 0x100 0x419000).setDr 4 0x00BEEF).setAr 2 0x1000002000))
      (fun t => t.flags == zcnv 0b0000 && t.pc == 0x101 && t.cell 0x1000002000 == some 0x00BEEF) = true := by decide
theorem test_stui :
    ends (step (withBank ((start 0x100 0x424456).setAr 1 0x2000) 0 0x123))
      (fun t => t.flags == zcnv 0b0000 && t.pc == 0x101 && t.cell 0x2000 == some 0x123456) = true ∧
    faults (step ((start 0x100 0x424456).setAr 1 0x2000)) .uimmNotLoaded = true := by decide
theorem test_stsi :
    ends (step ((start 0x100 0x437FFF).setAr 1 0x2000))
      (fun t => t.flags == zcnv 0b0000 && t.pc == 0x101 && t.cell 0x2000 == some 0xFFFFFF) = true ∧
    ends (step ((start 0x100 0x435FFF).setAr 1 0x2000))
      (fun t => t.flags == zcnv 0b0000 && t.pc == 0x101 && t.cell 0x2000 == some 0x001FFF) = true := by decide
theorem test_ldso :
    ends (step (withCell ((start 0x100 0x5057FF).setAr 1 0x2000) 0x1FFF 0x111111))
      (fun t => t.getDr 5 == 0x111111 && t.flags == zcnv 0b0000 && t.pc == 0x101) = true ∧
    ends (step (withCell ((start 0x100 0x5055FF).setAr 1 0x2000) 0x21FF 0x222222))
      (fun t => t.getDr 5 == 0x222222 && t.flags == zcnv 0b0000 && t.pc == 0x101) = true := by decide
theorem test_stso :
    ends (step (((start 0x100 0x515401).setDr 5 0x000003).setAr 1 0x2000))
      (fun t => t.flags == zcnv 0b0000 && t.pc == 0x101 && t.cell 0x2001 == some 0x000003) = true ∧
    ends (step (((start 0x100 0x513FFE).setDr 15 0xFFFFFF).setAr 0 0x2000))
      (fun t => t.flags == zcnv 0b0000 && t.pc == 0x101 && t.cell 0x1FFE == some 0xFFFFFF) = true := by decide
theorem test_ldaso :
    ends (step (withCell (withCell ((start 0x100 0x529004).setAr 1 0x2000) 0x2004 0x563412) 0x2005 0xBC9A78))
      (fun t => t.getAr 2 == 0xBC9A78563412 && t.flags == zcnv 0b0000 && t.pc == 0x101) = true ∧
    ends (step (withCell (withCell ((start 0x100 0x525FFE).setAr 1 0x2000) 0x1FFE 0x000010) 0x1FFF 0x000000))
      (fun t => t.getAr 1 == 0x10 && t.flags == zcnv 0b0000 && t.pc == 0x101) = true := by decide
theorem test_staso :
    ends (step (((start 0x100 0x536000).setAr 1 0x2000).setAr 2 0x123456789ABC))
      (fun t => t.flags == zcnv 0b0000 && t.pc == 0x101 && t.cell 0x2000 == some 0x789ABC && t.cell 0x2001 == some
        0x123456) = true ∧
    ends (step ((start 0x100 0x535FFF).setAr 1 0x0))
      (fun t => t.flags == zcnv 0b0000 && t.pc == 0x101 && t.cell 0xFFFFFFFFFFFF == some 0x000000 && t.cell 0x0 ==
        some 0x000000) = true := by decide
theorem test_movaur :
    ends (step ((((start 0x100 0x614E00).setDr 3 0xABCDEF).setAr 1 0x111111222222).withFlags (zcnv 0b1111)))
      (fun t => t.getAr 1 == 0xABCDEF222222 && t.flags == zcnv 0b1111 && t.pc == 0x101) = true ∧
    ends (step (((start 0x100 0x614C00).setDr 3 0xABCDEF).setAr 1 0x111111222222))
      (fun t => t.getAr 1 == 0x111111ABCDEF && t.flags == zcnv 0b0000 && t.pc == 0x101) = true := by decide
theorem test_movdur :
    ends (step ((start 0x100 0x624A00).setAr 2 0x222222))
      (fun t => t.getDr 4 == 0x000000 && t.flags == zcnv 0b1000 && t.pc == 0x101) = true ∧
    ends (step (((start 0x100 0x624800).setAr 2 0x222222).withFlags (zcnv 0b1110)))
      (fun t => t.getDr 4 == 0x222222 && t.flags == zcnv 0b0110 && t.pc == 0x101) = true := by decide
theorem test_addaur :
    ends (step (((start 0x100 0x634800).setDr 2 0xFFFFFF).setAr 1 0xFFFFFF))
      (fun t => t.getAr 1 == 0x1FFFFFE && t.flags == zcnv 0b0000 && t.pc == 0x101) = true ∧
    ends (step (((start 0x100 0x634800).setDr 2 0x000001).setAr 1 0xFFFFFFFFFFFF))
      (fun t => t.getAr 1 == 0x0 && t.flags == zcnv 0b0000 && t.pc == 0x101) = true := by decide
theorem test_subaur :
    ends (step (((start 0x100 0x644800).setDr 2 0xFFFFFF).setAr 1 0x1000000))
      (fun t => t.getAr 1 == 0x1 && t.flags == zcnv 0b0000 && t.pc == 0x101) = true ∧
    ends (step (((start 0x100 0x644800).setDr 2 0x000001).setAr 1 0x0))
      (fun t => t.getAr 1 == 0xFFFFFFFFFFFF && t.flags == zcnv 0b0000 && t.pc == 0x101) = true := by decide
theorem test_addasr :
    ends (step (((start 0x100 0x654800).setDr 2 0xFFFFFF).setAr 1 0x2000))
      (fun t => t.getAr 1 == 0x1FFF && t.flags == zcnv 0b0000 && t.pc == 0x101) = true ∧
    ends (step (((start 0x100 0x654800).setDr 2 0x7FFFFF).setAr 1 0x2000))
      (fun t => t.getAr 1 == 0x801FFF && t.flags == zcnv 0b0000 && t.pc == 0x101) = true := by decide
theorem test_subasr :
    ends (step (((start 0x100 0x664800).setDr 2 0xFFFFFF).setAr 1 0x2000))
      (fun t => t.getAr 1 == 0x2001 && t.flags == zcnv 0b0000 && t.pc == 0x101) = true ∧
    ends (step (((start 0x100 0x664800).setDr 2 0x800000).setAr 1 0x2000))
      (fun t => t.getAr 1 == 0x802000 && t.flags == zcnv 0b0000 && t.pc == 0x101) = true := by decide
theorem test_addasi :
    ends (step ((start 0x100 0x67CFFF).setAr 3 0x2000))
      (fun t => t.getAr 3 == 0x1FFF && t.flags == zcnv 0b0000 && t.pc == 0x101) = true ∧
    ends (step ((start 0x100 0x67C7FF).setAr 3 0x2000))
      (fun t => t.getAr 3 == 0x27FF && t.flags == zcnv 0b0000 && t.pc == 0x101) = true := by decide
theorem test_subasi :
    ends (step ((start 0x100 0x68C800).setAr 3 0x2000))
      (fun t => t.getAr 3 == 0x2800 && t.flags == zcnv 0b0000 && t.pc == 0x101) = true ∧
    ends (step ((start 0x100 0x68C002).setAr 3 0x1))
      (fun t => t.getAr 3 == 0xFFFFFFFFFFFF && t.flags == zcnv 0b0000 && t.pc == 0x101) = true := by decide
theorem test_leaso :
    ends (step ((start 0x100 0x69B100).setAr 3 0x8FFF))
      (fun t => t.getAr 2 == 0x90FF && t.flags == zcnv 0b0000 && t.pc == 0x101) = true ∧
    ends (step ((start 0x100 0x69AF00).setAr 2 0x8FFF))
      (fun t => t.getAr 2 == 0x8EFF && t.flags == zcnv 0b0000 && t.pc == 0x101) = true := by decide
theorem test_adraso :
    ends (step (start 0x100 0x6A4010))
      (fun t => t.getAr 1 == 0x110 && t.flags == zcnv 0b0000 && t.pc == 0x101) = true ∧
    ends (step (start 0x1000 0x6A6000))
      (fun t => t.getAr 1 == 0xFFFFFFFFF000 && t.flags == zcnv 0b0000 && t.pc == 0x1001) = true := by decide
theorem test_cmpaur :
    ends (step (((start 0x100 0x6D8000).setAr 0 0x90FF).setAr 2 0x90FF))
      (fun t => t.flags == zcnv 0b1000 && t.pc == 0x101) = true ∧
    ends (step (((start 0x100 0x6D8000).setAr 0 0x1000000).setAr 2 0xFFFFFF))
      (fun t => t.flags == zcnv 0b0100 && t.pc == 0x101) = true := by decide
theorem test_tstaur :
    ends (step ((start 0x100 0x6E4000).setAr 1 0x0)) (fun t => t.flags == zcnv 0b1000 && t.pc == 0x101) = true ∧
    ends (step (((start 0x100 0x6E4000).setAr 1 0x1000000).withFlags (zcnv 0b1111)))
      (fun t => t.flags == zcnv 0b0111 && t.pc == 0x101) = true := by decide
theorem test_btp :
    ends (step ((start 0x100 0x700000).withFlags (zcnv 0b1111)))
      (fun t => t.flags == zcnv 0b1111 && t.pc == 0x101) = true := by decide
theorem test_jccur :
    ends (step ((start 0x100 0x717800).setAr 1 0x123456789ABC))
      (fun t => t.flags == zcnv 0b0000 && t.pc == 0x123456789ABC) = true ∧
    ends (step (((start 0x100 0x714000).setAr 1 0x2000).withFlags (zcnv 0b1000)))
      (fun t => t.flags == zcnv 0b1000 && t.pc == 0x2000) = true := by decide
theorem test_jccui :
    ends (step (withBank (withBank (withBank (start 0x100 0x72E678) 0 0x345) 1 0x012) 2 0x000))
      (fun t => t.flags == zcnv 0b0000 && t.pc == 0x12345678) = true ∧
    faults (step (withBank (withBank (start 0x100 0x72E678) 0 0x345) 1 0x012)) .uimmNotLoaded = true := by decide
theorem test_bccsr :
    ends (step ((start 0x100 0x731E00).setDr 1 0xFFFFF0)) (fun t => t.flags == zcnv 0b0000 && t.pc == 0xF0) = true ∧
    ends (step ((start 0x100 0x731E00).setDr 1 0x7FFFFF))
      (fun t => t.flags == zcnv 0b0000 && t.pc == 0x8000FF) = true := by decide
theorem test_bccso :
    ends (step (start 0x100 0x741FFE)) (fun t => t.flags == zcnv 0b0000 && t.pc == 0xFE) = true ∧
    refuses (step (start 0x100 0x74F004)) (.condReserved 15) = true := by decide
theorem test_balso :
    ends (step (start 0x100 0x750002)) (fun t => t.flags == zcnv 0b0000 && t.pc == 0x102) = true ∧
    ends (step (start 0x100 0x758000))
      (fun t => t.flags == zcnv 0b0000 && t.pc == 0xFFFFFFFF8100) = true := by decide
theorem test_jsrur :
    ends (step ((withSsp (withLr ((start 0x100 0x768000).setAr 2 0x3000) 0xAAAAAAAAAAAA) 0x8000).withFlags (zcnv
      0b1111)))
      (fun t => t.lr == 0x100 && t.ssp == 0x7FFE && t.flags == zcnv 0b1111 && t.pc == 0x3000 && t.cell 0x7FFE ==
        some 0xAAAAAA && t.cell 0x7FFF == some 0xAAAAAA) = true := by decide
theorem test_jsrui :
    ends (step (withBank (withBank (withBank (withSsp (withLr (start 0x100 0x770000) 0x55) 0x8000) 0 0x003) 1 0x000)
      2 0x000))
      (fun t => t.lr == 0x100 && t.ssp == 0x7FFE && t.flags == zcnv 0b0000 && t.pc == 0x3000 && t.cell 0x7FFE ==
        some 0x000055 && t.cell 0x7FFF == some 0x000000) = true ∧
    faults (step (withBank (withSsp (withLr (start 0x100 0x770000) 0x55) 0x8000) 0 0x003)) .uimmNotLoaded = true :=
      by decide
theorem test_bsrsr :
    ends (step (withSsp (withLr ((start 0x1000 0x781000).setDr 1 0xFFFF00) 0x55) 0x8000))
      (fun t => t.lr == 0x1000 && t.ssp == 0x7FFE && t.flags == zcnv 0b0000 && t.pc == 0xF00 && t.cell 0x7FFE ==
        some 0x000055 && t.cell 0x7FFF == some 0x000000) = true := by decide
theorem test_bsrso :
    ends (step (withSsp (withLr (start 0x1006 0x790010) 0x101F) 0x8000))
      (fun t => t.lr == 0x1006 && t.ssp == 0x7FFE && t.flags == zcnv 0b0000 && t.pc == 0x1016 && t.cell 0x7FFE ==
        some 0x00101F && t.cell 0x7FFF == some 0x000000) = true ∧
    ends (step (withSsp (withLr (start 0x100 0x790010) 0x55) 0x1))
      (fun t => t.lr == 0x100 && t.ssp == 0xFFFFFFFFFFFF && t.flags == zcnv 0b0000 && t.pc == 0x110 && t.cell
        0xFFFFFFFFFFFF == some 0x000055 && t.cell 0x0 == some 0x000000) = true := by decide
theorem test_ret :
    ends (step (withCell (withCell (withSsp (withLr (start 0x1018 0x7A0000) 0x1017) 0x7FFE) 0x7FFE 0x00101F) 0x7FFF
      0x000000))
      (fun t => t.lr == 0x101F && t.ssp == 0x8000 && t.flags == zcnv 0b0000 && t.pc == 0x1020) = true := by decide
theorem test_pushur :
    ends (step ((((start 0x100 0x80C400).setDr 1 0x000011).setAr 3 0x9000).withFlags (zcnv 0b1111)))
      (fun t => t.getAr 3 == 0x8FFF && t.flags == zcnv 0b1111 && t.pc == 0x101 && t.cell 0x8FFF == some 0x000011) =
        true ∧
    ends (step (((start 0x100 0x80C400).setDr 1 0x000011).setAr 3 0x0))
      (fun t => t.getAr 3 == 0xFFFFFFFFFFFF && t.flags == zcnv 0b0000 && t.pc == 0x101 && t.cell 0xFFFFFFFFFFFF ==
        some 0x000011) = true := by decide
theorem test_pushaur :
    ends (step (((start 0x100 0x81E000).setAr 2 0x90FF).setAr 3 0x8FFF))
      (fun t => t.getAr 3 == 0x8FFD && t.flags == zcnv 0b0000 && t.pc == 0x101 && t.cell 0x8FFD == some 0x0090FF &&
        t.cell 0x8FFE == some 0x000000) = true ∧
    ends (step ((start 0x100 0x81F000).setAr 3 0x9000))
      (fun t => t.getAr 3 == 0x8FFE && t.flags == zcnv 0b0000 && t.pc == 0x101 && t.cell 0x8FFE == some 0x008FFE &&
        t.cell 0x8FFF == some 0x000000) = true := by decide
theorem test_popur :
    ends (step (withCell (((start 0x100 0x826C00).setAr 3 0x8FFF).withFlags (zcnv 0b1111)) 0x8FFF 0x000011))
      (fun t => t.getDr 6 == 0x000011 && t.getAr 3 == 0x9000 && t.flags == zcnv 0b1111 && t.pc == 0x101) = true :=
        by decide
theorem test_popaur :
    ends (step (withCell (withCell ((start 0x100 0x833000).setAr 3 0x8FFD) 0x8FFD 0x0090FF) 0x8FFE 0x000000))
      (fun t => t.getAr 0 == 0x90FF && t.getAr 3 == 0x8FFF && t.flags == zcnv 0b0000 && t.pc == 0x101) = true ∧
    ends (step (withCell (withCell ((start 0x100 0x83F000).setAr 3 0x8FFD) 0x8FFD 0x004000) 0x8FFE 0x000000))
      (fun t => t.getAr 3 == 0x4000 && t.flags == zcnv 0b0000 && t.pc == 0x101) = true := by decide
theorem test_csrrd :
    ends (step (withCsr ((start 0x100 0x906042).withFlags (zcnv 0b1111)) 0x42 0xABCDEF))
      (fun t => t.getDr 6 == 0xABCDEF && t.flags == zcnv 0b0111 && t.pc == 0x101) = true ∧
    ends (step (withCsr (start 0x100 0x9060FF) 0xFF 0x000000))
      (fun t => t.getDr 6 == 0x000000 && t.flags == zcnv 0b1000 && t.pc == 0x101) = true := by decide
theorem test_csrwr :
    ends (step (((start 0x100 0x911442).setDr 5 0xABCDEF).withFlags (zcnv 0b1111)))
      (fun t => t.flags == zcnv 0b1111 && t.pc == 0x101 && t.csr[0x42] == 0xABCDEF) = true := by decide
theorem test_srhlt :
    ends (step ((start 0x100 0xA00000).withFlags (zcnv 0b1111)))
      (fun t => t.flags == zcnv 0b1111 && t.pc == 0x100 && t.halted) = true := by decide
theorem test_setssp :
    ends (step (((start 0x100 0xA1C000).setAr 3 0x8000).withFlags (zcnv 0b1111)))
      (fun t => t.ssp == 0x8000 && t.flags == zcnv 0b1111 && t.pc == 0x101) = true := by decide
theorem test_swi :
    ends (step (withBank (withBank (withBank ((withLr (start 0x1024 0xA20000) 0x55).withFlags (zcnv 0b1111)) 0
      0x003) 1 0x000) 2 0x000))
      (fun t => t.lr == 0x1025 && t.flags == zcnv 0b1111 && t.pc == 0x3000) = true ∧
    ends (step (withBank (withBank (withBank (start 0x100 0xA20FFF) 0 0xFFF) 1 0xFFF) 2 0xFFF))
      (fun t => t.lr == 0x101 && t.flags == zcnv 0b0000 && t.pc == 0xFFFFFFFFFFFF) = true := by decide
theorem test_srmovur :
    ends (step (withParams (start 0x100 0xF04000) uopParams))
      (fun t => t.lr == 0x100 && t.pc == 0x101) = true := by decide
theorem test_srmovaur :
    ends (step (withParams ((start 0x100 0xF1A000).setAr 2 0x8000) uopParams))
      (fun t => t.ssp == 0x8000 && t.pc == 0x101) = true := by decide
theorem test_srjccso :
    ends (step (withParams (withLr (start 0x100 0xF27801) 0x300) uopParams))
      (fun t => t.pc == 0x301) = true := by decide
theorem test_sraddsi :
    ends (step (withParams (withSsp (start 0x100 0xF38002) 0x7FFE) uopParams))
      (fun t => t.ssp == 0x8000 && t.pc == 0x101) = true := by decide
theorem test_srsubsi :
    ends (step (withParams (withSsp (start 0x100 0xF48002) 0x1) uopParams))
      (fun t => t.ssp == 0xFFFFFFFFFFFF && t.pc == 0x101) = true := by decide
theorem test_srstso :
    ends (step (withParams (withLr (withSsp (start 0x100 0xF59000) 0x7FFE) 0x0000AAAAAAAA) uopParams))
      (fun t => t.cell 0x7FFE == some 0xAAAAAA && t.cell 0x7FFF == some 0x0000AA && t.pc == 0x101) = true := by
        decide
theorem test_srldso :
    ends (step (withParams (withCell (withCell (withSsp (start 0x100 0xF66FFE) 0x8000) 0x7FFE 0x000300) 0x7FFF 0)
      uopParams))
      (fun t => t.lr == 0x300 && t.pc == 0x101) = true := by decide

/-- Stops of the spec's 2.1, and the order of R272: a missing bank before the condition. -/
theorem test_stops :
    faults (step (start 0x100 0x111DEF)) .uimmNotLoaded = true ∧
    faults (step (withBank (start 0x100 0x72F678) 0 0x345)) .uimmNotLoaded = true ∧
    refuses (step (start 0x100 0x74F004)) (.condReserved 15) = true ∧
    refuses (step (start 0x100 0x10C123)) (.reservedEncoding 0x10C123 .noSuchBank) = true ∧
    faults (step (start 0x100 0xC12345)) (.reservedEncoding 0xC12345 .emptyOpclass) = true ∧
    faults (step (start 0x100 0x120000)) (.reservedEncoding 0x120000 .unassignedSubop) = true ∧
    refuses (step (start 0x100 0x000001)) (.reservedEncoding 0x000001 .reservedBits) = true ∧
    refuses (step (start 0x100 0xF04000)) (.reservedEncoding 0xF04000 .uopNotFetchable) = true ∧
    faults (step { start 0x100 0 with halted := true }) .halted = true ∧
    faults (step (withParams (start 0x100 0) (holeParams .fetch 0x100))) (.noMemory 0x100) = true ∧
    faults (step State.reset) (.unwrittenMemory 0x1000) = true := by decide

/-- U4 and U5: a text is refused at load for an unassigned subop, not for an empty opclass. -/
theorem test_load :
    refusedAtLoad defaultParams 0 [0x000000, 0xC12345, 0x120000, 0xF04000] =
      some (.reservedEncoding 0x120000 .unassignedSubop) ∧
    refusedAtLoad defaultParams 0 [0x000000, 0xC12345] = none := by decide

/-- The words of `copy 0xABCDEF, DR1` (E1 of the vectors) as a text: whole, without its LUIui, with a NOP between, with
another bank, with BALso to the second word, and with reset at the second word. -/
theorem test_loadLuiRuns :
    refusedAtLoad defaultParams 0 [0x100ABC, 0x111DEF] = none ∧
    refusedAtLoad defaultParams 0x20 [0x111DEF] = some (.luiRunMissing 0x20) ∧
    refusedAtLoad defaultParams 0x20 [0x100ABC, 0x000000, 0x111DEF] = some (.luiRunMissing 0x22) ∧
    refusedAtLoad defaultParams 0x20 [0x104ABC, 0x111DEF] = some (.luiRunMissing 0x21) ∧
    refusedAtLoad defaultParams 0x20 [0x750002, 0x100ABC, 0x111DEF] = some (.luiRunEntered 0x22) ∧
    refusedAtLoad defaultParams 0xFFF [0x100ABC, 0x111DEF] = some (.luiRunEntered 0x1000) := by decide

/-- R76 and U8: a RESERVED bit refuses a text without `RESERVED_BITS_STRICT` too, and so does condition code 15. -/
theorem test_loadReservedAndCond :
    refusedAtLoad { defaultParams with reservedBitsStrict := false } 0 [0x000001] =
      some (.reservedEncoding 0x000001 .reservedBits) ∧
    refusedAtLoad defaultParams 0 [0x74F004] = some (.condReserved 15) := by decide

/-- E1 of the vectors: the words of `copy 0xABCDEF, DR1` and `jump.al 0x12345678`, and where they lead. -/
theorem test_macros :
    (expand (.copy 0xABCDEF 1)).map encode = [0x100ABC, 0x111DEF] ∧
    (expand (.jump 14 0x12345678)).map encode = [0x108000, 0x104012, 0x100345, 0x72E678] ∧
    ends (runInstrs (expand (.copy 0xABCDEF 1)) State.reset) (fun t => t.getDr 1 == 0xABCDEF && t.pc == 0x1002) = true ∧
    ends (runInstrs (expand (.jump 14 0x12345678)) State.reset) (fun t => t.pc == 0x12345678) = true := by decide

/-- The ends of the ranges of R83. -/
theorem test_immediates :
    signedImm 12 (-2048) = some 0x800 ∧ signedImm 12 2047 = some 0x7FF ∧ signedImm 12 2048 = none ∧
    signedImm 8 (-129) = none ∧ unsignedImm 5 31 = some 31 ∧ unsignedImm 5 32 = none ∧ bankImm 2 = some 2 ∧
    bankImm 3 = none ∧ displacement 12 0x1004 0x1002 = some 0xFFE := by decide

/-! ## Witnesses: the hypotheses of each statement can be met, clause by clause -/

/-- NOP at the first and at the last cell. -/
def nopLow : State := start 0 0
def nopHigh : State := start 0xFFFFFFFFFFFF 0

/-- NOP at the last cell, stored to by nobody, where fetch is not coherent. -/
def nopIncoherent : State := withParams nopHigh { defaultParams with ifetchCoherent := false }

theorem witness_StepRunsTheDecodedInstruction :
    (nopHigh.halted = false ∧ memAdmits nopHigh.params nopHigh.pc .fetch = true ∧ nopHigh.cell nopHigh.pc = some 0 ∧
      nopHigh.params.ifetchCoherent = true ∧ decode nopHigh.params 0 = .ok .nop) ∧
    (nopIncoherent.halted = false ∧ memAdmits nopIncoherent.params nopIncoherent.pc .fetch = true ∧
      nopIncoherent.cell nopIncoherent.pc = some 0 ∧ nopIncoherent.pc.toNat ∉ nopIncoherent.stored ∧
      decode nopIncoherent.params 0 = .ok .nop) := by decide

theorem witness_OnlyHaltChangesHalted :
    (∃ t, exec .nop nopLow = .next t) ∧ (∃ t, exec .srhlt nopLow = .next t) := ⟨⟨_, rfl⟩, ⟨_, rfl⟩⟩

theorem witness_StepKeepsTheInvariant :
    (nopLow.inv = true ∧ ∃ t, step nopLow = .next t) ∧ (nopHigh.inv = true ∧ ∃ t, step nopHigh = .next t) :=
  ⟨⟨by decide, ⟨_, rfl⟩⟩, ⟨by decide, ⟨_, rfl⟩⟩⟩

/-- A rejected fetch, a cell without a value, a word that is none; JCCui and JSRui with a bank missing; JCCui with its
banks and a code without a meaning; LDAso whose first or second cell is rejected or holds no value; PUSHur and STAso
whose first or second cell is rejected. -/
theorem witness_OutcomesComeInOrder :
    (memAdmits (withParams nopHigh (holeParams .fetch 0xFFFFFFFFFFFF)).params 0xFFFFFFFFFFFF .fetch = false) ∧
    (memAdmits State.reset.params State.reset.pc .fetch = true ∧ State.reset.cell State.reset.pc = none) ∧
    (fetch (start 0 0xB00000) = .next 0xB00000 ∧ decode defaultParams 0xB00000 = .error .emptyOpclass) ∧
    (fetch (start 0 1) = .next 1 ∧ decode defaultParams 1 = .error .reservedBits) ∧
    (fetch (start 0 0x72F678) = .next 0x72F678 ∧ decode defaultParams 0x72F678 = .ok (.jccui 15 0x678) ∧
      (start 0 0x72F678).banksLoaded (banksRead (.jccui 15 0x678)) = false) ∧
    (fetch (start 0 0x770000) = .next 0x770000 ∧ decode defaultParams 0x770000 = .ok (.jsrui 0) ∧
      (start 0 0x770000).banksLoaded (banksRead (.jsrui 0)) = false) ∧
    ((withBank (withBank (withBank (start 0 0x72F678) 0 0) 1 0) 2 0).banksLoaded (banksRead (.jccui 15 0x678)) = true ∧
      conditionOf (.jccui 15 0x678) = some 15 ∧ ccHolds defaultParams 15 (zcnv 0) = none) ∧
    (decode defaultParams 0x529000 = .ok (.ldaso 2 1 0) ∧ decode defaultParams 0x534000 = .ok (.staso 1 0 0) ∧
      decode defaultParams 0x80C400 = .ok (.pushur 3 1)) ∧
    dataAccess (start 0 0x529000) (.ldaso 2 1 0) = some (.wideRead 0) ∧
    dataAccess (start 0 0x534000) (.staso 1 0 0) = some (.wideWrite 0) ∧
    dataAccess (start 0 0x80C400) (.pushur 3 1) = some (.write 0xFFFFFFFFFFFF) ∧
    (memAdmits (holeParams .read 0) 0 .read = false ∧ memAdmits (holeParams .write 0) 0 .write = false ∧
      memAdmits (holeParams .write 0xFFFFFFFFFFFF) 0xFFFFFFFFFFFF .write = false) ∧
    (memAdmits (holeParams .read 1) 0 .read = true ∧ ((start 0 0x529000).cell 0).isSome = true ∧
      memAdmits (holeParams .read 1) (0 + 1) .read = false) ∧
    (memAdmits defaultParams (0 + 1) .read = true ∧ (start 0 0x529000).cell (0 + 1) = none) ∧
    (memAdmits (holeParams .write 1) 0 .write = true ∧ memAdmits (holeParams .write 1) (0 + 1) .write = false) := by
  refine ⟨by decide, ⟨by decide, by decide⟩, ⟨rfl, by decide⟩, ⟨rfl, by decide⟩, ⟨rfl, by decide, by decide⟩, ⟨rfl, by decide, by decide⟩,
    ⟨by decide, by decide, by decide⟩, ⟨by decide, by decide, by decide⟩, by decide, by decide, by decide,
    by decide, by decide, by decide, by decide⟩

/-- A store to the next cell, with and without coherence. -/
def storesAhead (coherent : Bool) : State :=
  withParams ((start 0xFFFFFFFFFFFF 0x411000).setAr 0 0) { defaultParams with ifetchCoherent := coherent }

/-- PUSHAur stores to the last cell and the first one, and a mark is there before NOP; a fetch of a marked cell. -/
theorem witness_StoredCellIsFetchedOrRefused :
    ((∃ t, exec (.pushaur 0 1) (nopLow.setAr 0 1) = .next t) ∧
      storedCells (.pushaur 0 1) (nopLow.setAr 0 1) = [0xFFFFFFFFFFFF, 0]) ∧
    (∀ c : Bool, ∃ t, exec (.stur 0 4) (storesAhead c) = .next t ∧ t.pc = (storesAhead c).getAr 0 ∧
      memAdmits t.params t.pc .fetch = true ∧ (storesAhead c).params.ifetchCoherent = c ∧
      t.stored.contains t.pc.toNat = true ∧ t.cell t.pc = some 0 ∧ ∃ t', exec .nop t = .next t') := by
  refine ⟨⟨⟨_, rfl⟩, by decide⟩, fun c => ?_⟩
  cases c <;> exact ⟨_, rfl, by decide, by decide, by decide, by decide, by decide, ⟨_, rfl⟩⟩

theorem witness_DecodingAnEncodedInstructionGivesItBack :
    (Instr.luiui 2 0xFFF).wellFormed defaultParams = true ∧ isUop (.luiui 2 0xFFF) = false ∧
    (Instr.srldso 2 0 0xFFF).wellFormed uopParams = true ∧ uopParams.uopClassFetchable = true := by decide

theorem witness_EncodingADecodedWordGivesItBack :
    defaultParams.reservedBitsStrict = true ∧ decode defaultParams 0x108FFF = .ok (.luiui 2 0xFFF) := by decide

/-- Two words of one instruction with other operands and a set `H|L` bit, and a word of another. -/
theorem witness_OpclassAndSubopSelectTheInstruction :
    decode defaultParams 0x614800 = .ok (.movaur 1 2 .low) ∧ decode defaultParams 0x61FE00 = .ok (.movaur 3 15 .high) ∧
    decode defaultParams 0x624800 = .ok (.movdur 4 2 .low) := by decide

/-- One word for each of the three rules, at the first and last opclass and subop concerned. -/
theorem witness_UnassignedOpcodesAreReserved :
    (0xB00000 / 2 ^ 20 % 16 ∈ [11, 12, 13, 14] ∧ 0xEFFFFF / 2 ^ 20 % 16 ∈ [11, 12, 13, 14]) ∧
    (0xF00000 / 2 ^ 20 % 16 = 15 ∧ defaultParams.uopClassFetchable = false) ∧
    (0xF70000 / 2 ^ 16 % 16 = 7 ∧ uopParams.uopClassFetchable = true) ∧ 0x0F0000 / 2 ^ 16 % 16 = 15 ∧
    ((start 0 0xB00000).params = defaultParams ∧ (start 0 0xB00000).halted = false) ∧
    fetch (start 0 0xB00000) = .next 0xB00000 ∧ fetch (start 0 0xF00000) = .next 0xF00000 ∧
    fetch (start 0 0x0F0000) = .next 0x0F0000 ∧
    refusedAtLoad defaultParams 0 [0x000000, 0xEFFFFF] = none :=
  ⟨by decide, by decide, by decide, by decide, ⟨rfl, rfl⟩, rfl, rfl, rfl, by decide⟩

theorem witness_ReservedBitsDecideByTheParameter :
    (Instr.nop).wellFormed defaultParams = true ∧ isUop .nop = false ∧ defaultParams.reservedBitsStrict = true ∧
    { defaultParams with reservedBitsStrict := false }.reservedBitsStrict = false ∧
    (0x008000 &&& Sys2Proof.reservedMask .nop : Word) ≠ 0 ∧
    refusedAtLoad defaultParams 0 [0x100ABC, 0x111DEF] = none := by decide

/-- A condition that holds, one that does not, and a code without a meaning. -/
theorem conditions_met :
    ccHolds nopLow.params 14 nopLow.flags = some true ∧ ccHolds nopLow.params 0 nopLow.flags = some false ∧
    ccHolds nopLow.params 15 nopLow.flags = none := by decide

theorem witness_ConditionalMovesMoveOrNot :
    ccHolds nopLow.params 14 nopLow.flags = some true ∧ ccHolds nopLow.params 0 nopLow.flags = some false ∧
    ccHolds nopLow.params 15 nopLow.flags = none ∧ refusedAtLoad nopLow.params 0 [0x000000] = none :=
  ⟨conditions_met.1, conditions_met.2.1, conditions_met.2.2, by decide⟩

/-- Counts 0 (from 32) and 31 in a register, and 0, 1 and 31 as immediates. -/
theorem counts_met :
    ((nopLow.setDr 1 32).getDr 1).toNat % 32 = 0 ∧ ((nopLow.setDr 1 31).getDr 1).toNat % 32 ≠ 0 ∧
    ((nopLow.setDr 1 0xFFFFE1).getDr 1).toNat % 32 = 1 ∧ (0 : BitVec 5) = 0 ∧ (1 : BitVec 5) ≠ 0 ∧
    (31 : BitVec 5) ≠ 0 := by decide

theorem witness_ShiftsMultiplyAndDivide :
    ((nopLow.setDr 1 32).getDr 1).toNat % 32 = 0 ∧ ((nopLow.setDr 1 31).getDr 1).toNat % 32 ≠ 0 ∧
    (0 : BitVec 5) = 0 ∧ (31 : BitVec 5) ≠ 0 := ⟨counts_met.1, counts_met.2.1, rfl, counts_met.2.2.2.2.2⟩

theorem witness_RotationsMoveBitsRound :
    ((nopLow.setDr 1 32).getDr 1).toNat % 32 = 0 ∧ ((nopLow.setDr 1 31).getDr 1).toNat % 32 ≠ 0 ∧
    (0 : BitVec 5) = 0 ∧ (31 : BitVec 5) ≠ 0 := ⟨counts_met.1, counts_met.2.1, rfl, counts_met.2.2.2.2.2⟩

theorem witness_ArithmeticShiftsDivideSigned :
    ((nopLow.setDr 1 32).getDr 1).toNat % 32 = 0 ∧ ((nopLow.setDr 1 31).getDr 1).toNat % 32 ≠ 0 ∧
    (0 : BitVec 5) = 0 ∧ (1 : BitVec 5) ≠ 0 := ⟨counts_met.1, counts_met.2.1, rfl, counts_met.2.2.2.2.1⟩

/-- The first and the last bank, and the code that names none. -/
theorem witness_LuiLoadsOneBank :
    (0 : Fin 3).val = (0 : BitVec 2).toNat ∧ (2 : Fin 3).val = (2 : BitVec 2).toNat ∧ (3 : BitVec 2) = 3 := by decide

theorem witness_UpperImmediateFormsUseTheBank : (withBank nopLow 0 0xFFF).loaded[0] = true := by decide

theorem witness_OnlyLuiLeavesBanksLoaded :
    (∃ t, exec .nop (withBank nopLow 2 0) = .next t) ∧ Instr.nop ≠ .srhlt ∧ ∀ x imm, Instr.nop ≠ .luiui x imm :=
  ⟨⟨_, rfl⟩, by decide, (fun _ _ h => nomatch h)⟩

/-- AR0 at the last cell; the cell read holds a value, is rejected, or holds none. -/
def highPointer : State := withCell (nopLow.setAr 0 0xFFFFFFFFFFFF) 0xFFFFFFFFFFFF 7

theorem witness_LoadsReadOneCell :
    (memAdmits highPointer.params (highPointer.getAr 0) .read = true ∧
      highPointer.cell (highPointer.getAr 0) = some 7) ∧
    memAdmits (holeParams .read 0xFFFFFFFFFFFF) (highPointer.getAr 0) .read = false ∧
    (memAdmits nopLow.params (nopLow.getAr 0 + BitVec.ofInt 48 (BitVec.toInt (0x200 : BitVec 10))) .read = true ∧
      nopLow.cell (nopLow.getAr 0 + BitVec.ofInt 48 (BitVec.toInt (0x200 : BitVec 10))) = none) := by decide

theorem witness_StoresWriteOneCell :
    memAdmits highPointer.params (highPointer.getAr 0) .write = true ∧
    memAdmits (holeParams .write 0xFFFFFFFFFFFF) (highPointer.getAr 0) .write = false ∧
    (withBank highPointer 0 0xFFF).loaded[0] = true := by decide

/-- The two cells around the end of the address space, under both orders of the halves. -/
def wideAtTheEnd (lowFirst : Bool) : State :=
  withParams (withCell (withSsp highPointer 0xFFFFFFFFFFFF) 0 7) { defaultParams with wideLowFirst := lowFirst }

theorem wide_met (c : Bool) :
    admitsWide (wideAtTheEnd c).params 0xFFFFFFFFFFFF .read ∧
    (wideAtTheEnd c).holdsWide 0xFFFFFFFFFFFF 0x000007000007 ∧
    admitsWide (wideAtTheEnd c).params 0xFFFFFFFFFFFF .write := by
  refine ⟨⟨rfl, rfl⟩, ?_, ⟨rfl, rfl⟩⟩
  cases c <;> exact ⟨by decide, by decide⟩

/-- From `s`, whose pointer `ptr` is at the last cell: the first cell of a two-cell access is rejected; the first is
admitted and holds a value and the second is rejected; the first holds no value; only the second holds none. -/
def wideStopsMet (kind : AccessKind) (ptr : State → Addr) (s : State) : Bool :=
  let first := withParams s (holeParams kind 0xFFFFFFFFFFFF)
  let second := withParams s (holeParams kind 0)
  let empty := { s with mem := [] }
  let half := { s with mem := [(0xFFFFFFFFFFFF, 7)] }
  ptr s == 0xFFFFFFFFFFFF && !memAdmits first.params (ptr first) kind && memAdmits second.params (ptr second) kind &&
    (second.cell (ptr second)).isSome && !memAdmits second.params (ptr second + 1) kind &&
    memAdmits empty.params (ptr empty) kind && (empty.cell (ptr empty)).isNone &&
    (half.cell (ptr half)).isSome && memAdmits half.params (ptr half + 1) kind && (half.cell (ptr half + 1)).isNone

theorem witness_AddressRegistersUseTwoCells_stops :
    wideStopsMet .read (fun s => s.getAr 0 + BitVec.ofInt 48 0) highPointer = true ∧
    wideStopsMet .write (fun s => s.getAr 0 + BitVec.ofInt 48 0) highPointer = true := by decide

theorem witness_CallsLinkAndTransfer_stops :
    wideStopsMet .write (fun s => s.ssp - 2) (withSsp highPointer 1) = true := by decide

theorem witness_RetPopsAndContinuesAfter_stops :
    wideStopsMet .read (fun s => s.ssp) (withSsp highPointer 0xFFFFFFFFFFFF) = true := by decide

theorem witness_PushesStoreBelowThePointer_stops :
    wideStopsMet .write (fun s => s.getAr 1 - 1) highPointer = true ∧
    wideStopsMet .write (fun s => s.getAr 1 - 2) (highPointer.setAr 1 1) = true := by decide

theorem witness_PopsLoadFromTheOldPointer_stops : wideStopsMet .read (fun s => s.getAr 0) highPointer = true := by decide

theorem witness_SpecialRegisterJumpsAndAccesses_stops :
    wideStopsMet .read (fun s => s.getSr .ssp + BitVec.ofInt 48 (-1)) highPointer = true ∧
    wideStopsMet .write (fun s => s.getSr .ssp + BitVec.ofInt 48 (-1)) highPointer = true := by decide

theorem witness_AddressRegistersUseTwoCells : ∀ c : Bool, (wideAtTheEnd c).getAr 0 + BitVec.ofInt 48 0 = 0xFFFFFFFFFFFF ∧
    admitsWide (wideAtTheEnd c).params 0xFFFFFFFFFFFF .read ∧
    (wideAtTheEnd c).holdsWide 0xFFFFFFFFFFFF 0x000007000007 ∧
    admitsWide (wideAtTheEnd c).params 0xFFFFFFFFFFFF .write :=
  fun c => ⟨by cases c <;> decide, wide_met c⟩

/-- All three banks loaded. -/
def allBanks : State := withBank (withBank (withBank nopHigh 0 0xFFF) 1 0xFFF) 2 0xFFF

theorem witness_TransfersGoToTheirTargets :
    ccHolds nopLow.params 14 nopLow.flags = some true ∧ ccHolds nopLow.params 0 nopLow.flags = some false ∧
    ccHolds nopLow.params 15 nopLow.flags = none ∧ allBanks.banksLoaded [0, 1, 2] = true :=
  ⟨conditions_met.1, conditions_met.2.1, conditions_met.2.2, by decide⟩

/-- SSP is 1, so that the old LR is stored around the end of the address space. -/
theorem witness_CallsLinkAndTransfer :
    admitsWide (withSsp allBanks 1).params ((withSsp allBanks 1).ssp - 2) .write ∧
    (withSsp allBanks 1).banksLoaded [0, 1, 2] = true := ⟨⟨rfl, rfl⟩, by decide⟩

theorem witness_RetPopsAndContinuesAfter : ∀ c : Bool, (wideAtTheEnd c).ssp = 0xFFFFFFFFFFFF ∧
    admitsWide (wideAtTheEnd c).params (wideAtTheEnd c).ssp .read ∧
    (wideAtTheEnd c).holdsWide (wideAtTheEnd c).ssp 0x000007000007 :=
  fun c => ⟨rfl, (wide_met c).1, (wide_met c).2.1⟩

/-- Two calls one after the other, with the stack at the end of the address space. -/
theorem witness_RetAfterCallGoesOneLevelOut :
    isCall (.bsrso 0x10) = true ∧ isCall (.jsrur 0) = true ∧
    admitsWide (withSsp nopLow 1).params ((withSsp nopLow 1).ssp - 2) .read ∧
    admitsWide (withSsp nopLow 1).params ((withSsp nopLow 1).ssp - 4) .read ∧
    ∃ s1, exec (.bsrso 0x10) (withSsp nopLow 1) = .next s1 ∧ ∃ s2, exec (.jsrur 0) s1 = .next s2 :=
  ⟨rfl, rfl, ⟨rfl, rfl⟩, ⟨rfl, rfl⟩, _, rfl, _, rfl⟩

/-- The pointer is 0: the cell below it is the last one. -/
theorem witness_PushesStoreBelowThePointer :
    memAdmits nopLow.params (nopLow.getAr 3 - 1) .write = true ∧ admitsWide nopLow.params (nopLow.getAr 3 - 2) .write :=
  ⟨rfl, rfl, rfl⟩

theorem witness_PopsLoadFromTheOldPointer : ∀ c : Bool,
    (memAdmits (wideAtTheEnd c).params ((wideAtTheEnd c).getAr 0) .read = true ∧
      (wideAtTheEnd c).cell ((wideAtTheEnd c).getAr 0) = some 7) ∧
    (wideAtTheEnd c).getAr 0 = 0xFFFFFFFFFFFF ∧ admitsWide (wideAtTheEnd c).params 0xFFFFFFFFFFFF .read ∧
    (wideAtTheEnd c).holdsWide 0xFFFFFFFFFFFF 0x000007000007 :=
  fun c => ⟨⟨rfl, by cases c <;> decide⟩, by cases c <;> decide, (wide_met c).1, (wide_met c).2.1⟩

theorem witness_PopUndoesPush :
    (∀ a, memAdmits nopLow.params a .read = true) ∧ (∃ t, exec (.pushur 3 1) nopLow = .next t) ∧
    (∃ t, exec (.pushaur 3 2) nopLow = .next t) ∧ (2 : BitVec 2) ≠ 3 ∧ (0 : BitVec 2) ≠ 3 :=
  ⟨fun _ => rfl, ⟨_, rfl⟩, ⟨_, rfl⟩, by decide, by decide⟩

theorem witness_ControlRegistersAreStorage :
    csrIsHooked defaultParams 0 = false ∧ csrIsHooked defaultParams 0xFF = false ∧
    csrIsHooked { defaultParams with csrHooked := [0xFF] } 0xFF = true := by decide

theorem witness_SwiLinksAndJumps : allBanks.banksLoaded [0, 1, 2] = true := by decide

/-- Every register, by its code. -/
theorem witness_SpecialRegisterMovesAndSums :
    nopHigh.params.specialReg 0 = some .pc ∧ nopHigh.params.specialReg 1 = some .lr ∧
    nopHigh.params.specialReg 2 = some .ssp := by decide

/-- Target SSP at the last cell, with the conditions and the two-cell values of each clause. -/
theorem witness_SpecialRegisterJumpsAndAccesses :
    (nopLow.params.specialReg 2 = some .ssp ∧ nopLow.params.specialReg 1 = some .lr) ∧
    (ccHolds nopLow.params 14 nopLow.flags = some true ∧ ccHolds nopLow.params 0 nopLow.flags = some false ∧
      ccHolds nopLow.params 15 nopLow.flags = none) ∧
    ∀ c : Bool, (wideAtTheEnd c).params.specialReg 2 = some .ssp ∧
      (wideAtTheEnd c).getSr .ssp + BitVec.ofInt 48 0 = 0xFFFFFFFFFFFF ∧
      admitsWide (wideAtTheEnd c).params 0xFFFFFFFFFFFF .read ∧
      (wideAtTheEnd c).holdsWide 0xFFFFFFFFFFFF 0x000007000007 ∧
      admitsWide (wideAtTheEnd c).params 0xFFFFFFFFFFFF .write :=
  ⟨by decide, conditions_met, fun c => ⟨by cases c <;> decide, by cases c <;> decide, wide_met c⟩⟩

theorem witness_UnnamedSpecialRegisterIsReserved : nopLow.params.specialReg 3 = none := by decide

theorem witness_SequencesAreTheirMicroOperations :
    paramsWf allBanks.params = true ∧ allBanks.banksLoaded [0, 1, 2] = true := by decide

/-- A signed immediate at both ends of its range, and a displacement around the end of the address space. -/
theorem witness_ImmediatesStandForTheirValues :
    0 < 1 ∧ signedImm 12 (-2048) = some 0x800 ∧ signedImm 12 2047 = some 0x7FF ∧
    displacement 16 0xFFFFFFFFFFFF 0 = some 1 := by decide

/-- The pointers are 0 and 1, so that the accesses lie around the end of the address space. -/
theorem witness_MacrosActOnTheWholeImmediate :
    memAdmits nopLow.params (nopLow.getAr 3) .write = true ∧ ccHolds nopLow.params 14 nopLow.flags = some true ∧
    ccHolds nopLow.params 0 nopLow.flags = some false ∧
    admitsWide (withSsp nopLow 1).params ((withSsp nopLow 1).ssp - 2) .write ∧
    ((∀ k, 0 < k → k < (expand (.jump 14 0)).length → defaultParams.resetPc ≠ wordAddr 0x20 k ∧ 0 ≠ wordAddr 0x20 k) ∧
      (defaultParams.ccTable[(14 : BitVec 4).toNat]'(by decide)).isSome = true) :=
  ⟨rfl, conditions_met.1, conditions_met.2.1, ⟨rfl, rfl⟩,
    fun k h h4 => by
      have : k = 1 ∨ k = 2 ∨ k = 3 := by simp only [expand, splitImm48, List.length_cons, List.length_nil] at h4; omega
      obtain rfl | rfl | rfl := this <;> decide,
    by decide⟩

/-- A consumer after a NOP and LUIui of another bank; an accepted text with a branch before a run, to its first word, and
one that is a whole jump. -/
theorem witness_UnloadedBankIsUndefined :
    (banksRead (.movui 1 0xDEF) ≠ [] ∧ (∀ l ∈ [((1 : BitVec 2), (0xABC : Bank))], l.1 ≠ 3) ∧
      refusedAtLoad defaultParams 0x20 [0x000000] = none ∧ EndsInNoLui [0x000000] ∧
      ∃ b ∈ banksRead (.movui 1 0xDEF), ∀ l ∈ [((1 : BitVec 2), (0xABC : Bank))], l.1.toNat ≠ b.val) ∧
    (refusedAtLoad defaultParams 0x20 [0x750001, 0x100ABC, 0x111DEF] = none ∧
      [0x750001] ++ luiWords [(0, 0xABC)] ++ encode (.movui 1 0xDEF) :: [] = [0x750001, 0x100ABC, 0x111DEF] ∧
      encode (.balso 1) = 0x750001) ∧
    (refusedAtLoad defaultParams 0x20 ((splitImm48 0x20 (.jccui 14)).map encode) = none ∧
      banksRead (.jccui 14 0x20) ≠ []) := by
  refine ⟨⟨by decide, by simp, by decide, fun x imm h => ?_, ⟨0, by decide, by simp⟩⟩, by decide, by decide⟩
  have h' := congrArg (fun w => w.getLsbD 20) (Option.some.inj h)
  simp only [encode, BitVec.getLsbD_append] at h'
  simp at h'

theorem witness_AlwaysConditionAlwaysHolds : paramsWf nopLow.params = true := by decide

/-- ADDur keeps `N`, outside its braces. -/
theorem witness_FlagsOutsideTheBracesAreKept :
    (∃ t, exec (.addur 1 2) nopLow = .next t) ∧ Loc.n ∈ [Loc.z, .c, .n, .v] ∧ Loc.n ∉ braces (.addur 1 2) :=
  ⟨⟨_, rfl⟩, by decide, by decide⟩

theorem witness_SpecialRegistersHaveFewWriters :
    (∃ t, exec .btp nopLow = .next t) ∧ isUop .btp = false ∧ isCall .btp = false ∧ Instr.btp ≠ .ret ∧
    (∀ imm, Instr.btp ≠ .swi imm) ∧ ∀ b, Instr.btp ≠ .setssp b :=
  ⟨⟨_, rfl⟩, rfl, rfl, by decide, (fun _ h => nomatch h), (fun _ h => nomatch h)⟩

/-- A load reads memory and writes none, a compare does neither. -/
theorem witness_OtherInstructionsLeaveMemoryAlone :
    (writesMemory (.ldur 1 0) = false ∧ ∃ t, exec (.ldur 1 0) highPointer = .next t) ∧
    accessesMemory (.cmpur 1 2) = false := ⟨⟨rfl, ⟨_, rfl⟩⟩, rfl⟩

theorem witness_LinkAndStackPointerStayHidden :
    isUop (.pushur 3 1) = false ∧ isCall (.pushur 3 1) = false ∧ Instr.pushur 3 1 ≠ .ret := by decide

theorem witness_OutcomesAreTheListedOnes :
    (Instr.luiui 2 0).wellFormed nopLow.params = true ∧ (Instr.srldso 1 2 0).wellFormed nopLow.params = true := by
  decide

end Sys2Proof.Tests
end

section
/-!
How an instruction can end (R12, R270): the listed outcomes as a predicate on any operation's answer, one rule for
each shared operation, and the case split over the instructions (O60).
-/

namespace Sys2Proof.Machine

/-- The answer `x` of an operation of the instruction `i` is a result or a stop that the rule of `i` lists, or the
model's own stop at a cell without a value (log entry 13). -/
inductive EndsAsListed (i : Instr) {α : Type} : Run α → Prop where
  | next (a : α) : EndsAsListed i (.next a)
  | uimmNotLoaded (h : banksRead i ≠ []) : EndsAsListed i (.fault .uimmNotLoaded)
  | condReserved (h : isConditional i = true) (cc : BitVec 4) : EndsAsListed i (.refused (.condReserved cc))
  | noMemory (h : accessesMemory i = true) (a : Addr) : EndsAsListed i (.fault (.noMemory a))
  | unwrittenMemory (h : accessesMemory i = true) (a : Addr) : EndsAsListed i (.fault (.unwrittenMemory a))

theorem endsAsListed_iff {i : Instr} {α : Type} {x : Run α} :
    EndsAsListed i x ↔
      (∃ t, x = .next t) ∨
      (banksRead i ≠ [] ∧ x = .fault .uimmNotLoaded) ∨
      (isConditional i = true ∧ ∃ cc, x = .refused (.condReserved cc)) ∨
      (accessesMemory i = true ∧ ∃ a, x = .fault (.noMemory a) ∨ x = .fault (.unwrittenMemory a)) := by
  constructor
  · rintro (a | h | ⟨h, cc⟩ | ⟨h, a⟩ | ⟨h, a⟩)
    · exact .inl ⟨a, rfl⟩
    · exact .inr (.inl ⟨h, rfl⟩)
    · exact .inr (.inr (.inl ⟨h, cc, rfl⟩))
    · exact .inr (.inr (.inr ⟨h, a, .inl rfl⟩))
    · exact .inr (.inr (.inr ⟨h, a, .inr rfl⟩))
  · rintro (⟨a, rfl⟩ | ⟨h, rfl⟩ | ⟨h, cc, rfl⟩ | ⟨h, a, rfl | rfl⟩)
    · exact .next a
    · exact .uimmNotLoaded h
    · exact .condReserved h cc
    · exact .noMemory h a
    · exact .unwrittenMemory h a

/-! ## One rule per shared operation -/

section
variable {i : Instr} {s : State}

theorem EndsAsListed.andThen {α β : Type} {x : Run α} {f : α → Run β} (hx : EndsAsListed i x)
    (hf : ∀ a, EndsAsListed i (f a)) : EndsAsListed i (andThen x f) := by
  cases hx with
  | next a => exact hf a
  | uimmNotLoaded h => exact .uimmNotLoaded h
  | condReserved h cc => exact .condReserved h cc
  | noMemory h a => exact .noMemory h a
  | unwrittenMemory h a => exact .unwrittenMemory h a

theorem completeSr_endsAsListed (r : SpecialReg) (v : Addr) : EndsAsListed i (completeSr r v s) := by
  cases r with
  | pc | lr | ssp => exact .next _

theorem shiftZC_endsAsListed (op : Word → Nat → Shifted) (t : BitVec 4) (n : Nat) :
    EndsAsListed i (shiftZC op t n s) := by
  unfold shiftZC
  split
  · exact .next _
  · exact .next _

theorem shiftZNC_endsAsListed (t : BitVec 4) (n : Nat) : EndsAsListed i (shiftZNC t n s) := by
  unfold shiftZNC
  split
  · exact .next _
  · exact .next _

theorem needUimm_endsAsListed {bs : List (Fin 3)} {go : Run State} (h : banksRead i ≠ [])
    (hgo : EndsAsListed i go) : EndsAsListed i (needUimm bs s go) := by
  unfold needUimm
  split
  · exact hgo
  · exact .uimmNotLoaded h

theorem whenCond_endsAsListed {cc : BitVec 4} {yes no : Run State} (h : isConditional i = true)
    (hyes : EndsAsListed i yes) (hno : EndsAsListed i no) : EndsAsListed i (whenCond cc s yes no) := by
  unfold whenCond
  split
  · exact hyes
  · exact hno
  · exact .condReserved h cc

/-- A code that names a special register is never refused (R26). -/
theorem withSr_endsAsListed {j : Instr} {code : BitVec 2} {go : SpecialReg → Run State}
    (h : s.params.namesSpecial code = true) (hgo : ∀ r, EndsAsListed i (go r)) :
    EndsAsListed i (withSr j code s go) := by
  obtain ⟨r, hr⟩ := Option.isSome_iff_exists.1 h
  simp only [withSr, hr]
  exact hgo r

theorem memRead_endsAsListed {a : Addr} (h : accessesMemory i = true) : EndsAsListed i (memRead a s) := by
  unfold memRead
  split
  · split
    · exact .next _
    · exact .unwrittenMemory h a
  · exact .noMemory h a

theorem memWrite_endsAsListed {a : Addr} {v : Word} (h : accessesMemory i = true) :
    EndsAsListed i (memWrite a v s) := by
  unfold memWrite
  split
  · exact .next _
  · exact .noMemory h a

theorem memReadWide_endsAsListed {a : Addr} (h : accessesMemory i = true) : EndsAsListed i (memReadWide a s) :=
  (memRead_endsAsListed h).andThen fun _ => (memRead_endsAsListed h).andThen fun _ => .next _

theorem memWriteWide_endsAsListed {a v : Addr} (h : accessesMemory i = true) :
    EndsAsListed i (memWriteWide a v s) :=
  (memWrite_endsAsListed h).andThen fun _ => memWrite_endsAsListed h

theorem link_endsAsListed (h : accessesMemory i = true) : EndsAsListed i (link s) :=
  (memWriteWide_endsAsListed h).andThen fun _ => .next _

end

/-- LUIui of a bank that exists always completes (R121). -/
theorem execLuiui_endsAsListed {i : Instr} {x : BitVec 2} {imm : BitVec 12} {s : State}
    (h : bankExists x = true) : EndsAsListed i (execLuiui x imm s) := by
  have hx : x.toNat < 3 := by simp only [bankExists, bne_iff_ne] at h; bv_omega
  simp only [execLuiui, dif_pos hx]
  exact .next _

/-! ## Every instruction -/

/-- The instructions by what can stop them: nothing, an unloaded bank, a condition without a meaning, an access. Of
the micro-operations and LUIui, well-formedness leaves out the operands that name nothing. -/
theorem exec_endsAsListed (i : Instr) (s : State) (h : i.wellFormed s.params = true) :
    EndsAsListed i (exec i s) := by
  cases i with
  | nop | movur | addur | subur | notur | andur | orur | xorur | cmpur | tstur | addsr | subsr | negsr | cmpsr
  | tstsr | movsi | addsi | subsi | cmpsi | movaur | movdur | addaur | subaur | addasr | subasr | addasi | subasi
  | leaso | adraso | cmpaur | tstaur | btp | balso | csrrd | csrwr | srhlt | setssp => exact .next _
  | shlur | rolur | shrur | rorur | shlui | rolui | shrui | rorui => exact shiftZC_endsAsListed _ _ _
  | shrsr | shrsi => exact shiftZNC_endsAsListed _ _
  | luiui => exact execLuiui_endsAsListed h
  | movui | addui | subui | andui | orui | xorui | cmpui | swi =>
    exact needUimm_endsAsListed (List.cons_ne_nil _ _) (.next _)
  | mccur | mccsi | jccur | bccsr | bccso => exact whenCond_endsAsListed rfl (.next _) (.next _)
  | jccui =>
    exact needUimm_endsAsListed (List.cons_ne_nil _ _) (whenCond_endsAsListed rfl (.next _) (.next _))
  | ldur | ldso | popur => exact (memRead_endsAsListed rfl).andThen fun _ => .next _
  | stur | stsi | stso | pushur => exact (memWrite_endsAsListed rfl).andThen fun _ => .next _
  | stui =>
    exact needUimm_endsAsListed (List.cons_ne_nil _ _) ((memWrite_endsAsListed rfl).andThen fun _ => .next _)
  | ldaso | popaur | ret => exact (memReadWide_endsAsListed rfl).andThen fun _ => .next _
  | staso | pushaur => exact (memWriteWide_endsAsListed rfl).andThen fun _ => .next _
  | jsrur | bsrsr | bsrso => exact (link_endsAsListed rfl).andThen fun _ => .next _
  | jsrui =>
    exact needUimm_endsAsListed (List.cons_ne_nil _ _) ((link_endsAsListed rfl).andThen fun _ => .next _)
  | srmovaur | sraddsi | srsubsi => exact withSr_endsAsListed h fun _ => completeSr_endsAsListed _ _
  | srjccso => exact withSr_endsAsListed h fun _ => whenCond_endsAsListed rfl (.next _) (.next _)
  | srmovur =>
    obtain ⟨ht, hs⟩ := Bool.and_eq_true_iff.1 h
    exact withSr_endsAsListed ht fun _ => withSr_endsAsListed hs fun _ => completeSr_endsAsListed _ _
  | srstso =>
    obtain ⟨ht, hs⟩ := Bool.and_eq_true_iff.1 h
    exact withSr_endsAsListed ht fun _ => withSr_endsAsListed hs fun _ =>
      (memWriteWide_endsAsListed rfl).andThen fun _ => .next _
  | srldso =>
    obtain ⟨ht, hs⟩ := Bool.and_eq_true_iff.1 h
    exact withSr_endsAsListed ht fun _ => withSr_endsAsListed hs fun _ =>
      (memReadWide_endsAsListed rfl).andThen fun _ => completeSr_endsAsListed _ _

/-- Settles O60: the case split over the instructions, each made of shared operations that end as listed. -/
theorem outcomesAreTheListedOnes : Obligations.OutcomesAreTheListedOnes :=
  fun i s h => endsAsListed_iff.1 (exec_endsAsListed i s h)

end Sys2Proof.Machine
end

section
/-!
What a completed instruction leaves as it was: the rules of `Frame` for each update of the state, the places each
instruction may change, and from them who changes `halted`, the flags, the special registers and the `loaded` bits
(O3, O26, O56, O57).
-/

namespace Sys2Proof.Machine

/-! ## Frames -/

section
variable {s t u : State} {c d : List Loc}

theorem Frame.refl (c : List Loc) (s : State) : Frame c s s := ⟨rfl, fun _ _ => rfl⟩

theorem Frame.mono (h : Frame c s t) (hcd : c ⊆ d) : Frame d s t :=
  ⟨h.1, fun l hl => h.2 l fun hc => hl (hcd hc)⟩

theorem Frame.trans (h : Frame c s t) (h' : Frame d t u) : Frame (c ++ d) s u := by
  refine ⟨h'.1.trans h.1, fun l hl => ?_⟩
  obtain ⟨hc, hd⟩ := not_or.1 (mt List.mem_append.2 hl)
  exact (h'.2 l hd).trans (h.2 l hc)

theorem Frame.params (h : Frame c s t) : t.params = s.params := h.1

theorem Frame.halted (h : Frame c s t) (hc : Loc.halted ∉ c) : t.halted = s.halted :=
  (by decide : ∀ a b : Bool, a.toNat = b.toNat → a = b) _ _ (Option.some.inj (h.2 .halted hc))

theorem Frame.lr (h : Frame c s t) (hc : Loc.lr ∉ c) : t.lr = s.lr :=
  BitVec.eq_of_toNat_eq (Option.some.inj (h.2 .lr hc))

theorem Frame.ssp (h : Frame c s t) (hc : Loc.ssp ∉ c) : t.ssp = s.ssp :=
  BitVec.eq_of_toNat_eq (Option.some.inj (h.2 .ssp hc))

theorem Frame.sr3 (h : Frame c s t) (hc : Loc.sr3 ∉ c) : t.sr3 = s.sr3 :=
  BitVec.eq_of_toNat_eq (Option.some.inj (h.2 .sr3 hc))

end

/-! ## One rule per update -/

section
variable (s : State)

theorem frame_setDr (i : BitVec 4) (v : Word) : Frame [.dr i] s (s.setDr i v) := by
  refine ⟨rfl, fun l hl => ?_⟩
  cases l with
  | dr j => simp only [State.observe, State.getDr_setDr_ne s v fun e : i = j => hl (by simp [e])]
  | _ => rfl

theorem frame_setAr (i : BitVec 2) (v : Addr) : Frame [.ar i] s (s.setAr i v) := by
  refine ⟨rfl, fun l hl => ?_⟩
  cases l with
  | ar j => simp only [State.observe, State.getAr_setAr_ne s v fun e : i = j => hl (by simp [e])]
  | _ => rfl

theorem frame_setSr_lr (v : Addr) : Frame [.lr] s (s.setSr .lr v) := by
  refine ⟨rfl, fun l hl => ?_⟩
  cases l with
  | lr => simp at hl
  | _ => rfl

theorem frame_setSr_ssp (v : Addr) : Frame [.ssp] s (s.setSr .ssp v) := by
  refine ⟨rfl, fun l hl => ?_⟩
  cases l with
  | ssp => simp at hl
  | _ => rfl

theorem frame_withFlags {c : List Loc} {f : Flags} (hz : Loc.z ∉ c → f.z = s.flags.z)
    (hc : Loc.c ∉ c → f.c = s.flags.c) (hn : Loc.n ∉ c → f.n = s.flags.n) (hv : Loc.v ∉ c → f.v = s.flags.v) :
    Frame c s (s.withFlags f) := by
  refine ⟨rfl, fun l hl => ?_⟩
  cases l with
  | z => simp only [State.observe, State.withFlags_flags, hz hl]
  | c => simp only [State.observe, State.withFlags_flags, hc hl]
  | n => simp only [State.observe, State.withFlags_flags, hn hl]
  | v => simp only [State.observe, State.withFlags_flags, hv hl]
  | _ => rfl

theorem frame_flagsZ {w : Nat} (r : BitVec w) : Frame [.z] s (s.withFlags (flagsZ r s.flags)) :=
  frame_withFlags s (by simp) (fun _ => rfl) (fun _ => rfl) (fun _ => rfl)

theorem frame_flagsZC {w : Nat} (r : BitVec w) (c : Bool) : Frame [.z, .c] s (s.withFlags (flagsZC r c s.flags)) :=
  frame_withFlags s (by simp) (by simp) (fun _ => rfl) (fun _ => rfl)

theorem frame_flagsZN (r : Word) : Frame [.z, .n] s (s.withFlags (flagsZN r s.flags)) :=
  frame_withFlags s (by simp) (fun _ => rfl) (by simp) (fun _ => rfl)

theorem frame_flagsZNV (r : Word) (v : Bool) : Frame [.z, .n, .v] s (s.withFlags (flagsZNV r v s.flags)) :=
  frame_withFlags s (by simp) (fun _ => rfl) (by simp) (by simp)

theorem frame_flagsZNC (r : Word) (c : Bool) : Frame [.z, .n, .c] s (s.withFlags (flagsZNC r c s.flags)) :=
  frame_withFlags s (by simp) (by simp) (by simp) (fun _ => rfl)

theorem frame_resultZ (t : BitVec 4) (r : Word) : Frame [.dr t, .z] s (s.resultZ t r) :=
  (frame_setDr s t r).trans (frame_flagsZ _ r)

theorem frame_resultZC (t : BitVec 4) (r : Word) (c : Bool) : Frame [.dr t, .z, .c] s (s.resultZC t r c) :=
  (frame_setDr s t r).trans (frame_flagsZC _ r c)

theorem frame_resultZN (t : BitVec 4) (r : Word) : Frame [.dr t, .z, .n] s (s.resultZN t r) :=
  (frame_setDr s t r).trans (frame_flagsZN _ r)

theorem frame_resultZNV (t : BitVec 4) (r : Word) (v : Bool) : Frame [.dr t, .z, .n, .v] s (s.resultZNV t r v) :=
  (frame_setDr s t r).trans (frame_flagsZNV _ r v)

theorem frame_resultZNC (t : BitVec 4) (r : Word) (c : Bool) : Frame [.dr t, .z, .n, .c] s (s.resultZNC t r c) :=
  (frame_setDr s t r).trans (frame_flagsZNC _ r c)

/-- PC and the `loaded` bits are no places of a frame. -/
theorem frame_advance (a : Addr) (b : Vector Bool 3) : Frame [] s { s with pc := a, loaded := b } := by
  refine ⟨rfl, fun l _ => ?_⟩
  cases l with
  | _ => rfl

theorem frame_setHalted (b : Bool) : Frame [.halted] s { s with halted := b } := by
  refine ⟨rfl, fun l hl => ?_⟩
  cases l with
  | halted => simp at hl
  | _ => rfl

theorem frame_setBank (x : Fin 3) (v : Bank) : Frame [.bank x] s { s with bank := s.bank.set x v } := by
  refine ⟨rfl, fun l hl => ?_⟩
  cases l with
  | bank y =>
    have hxy : x.val ≠ y.val := fun e => hl (by simp [Fin.ext e])
    simp only [State.observe, Fin.getElem_fin, Vector.getElem_set_ne x.isLt y.isLt hxy]
  | _ => rfl

theorem frame_csrDraw (n : BitVec 8) : Frame [.draws] s (csrDraw n s) := by
  obtain h | h := csrDraw_cases n s
  · rw [h]
    exact Frame.refl _ s
  · rw [h]
    refine ⟨rfl, fun l hl => ?_⟩
    cases l with
    | draws => simp at hl
    | _ => rfl

theorem frame_csrWrite (n : BitVec 8) (v : Word) : Frame [.csr n] s (csrWrite n v s) := by
  obtain h | h := csrWrite_cases n v s
  · rw [h]
    exact Frame.refl _ s
  · rw [h]
    refine ⟨rfl, fun l hl => ?_⟩
    cases l with
    | csr m =>
      have hnm : n.toNat ≠ m.toNat := fun e => hl (by simp [BitVec.eq_of_toNat_eq e])
      simp only [State.observe, Vector.getElem_set_ne n.isLt m.isLt hnm]
    | _ => rfl

end

section
variable {s t : State} {a v : Addr}

theorem frame_memWrite {w : Word} (h : memWrite a w s = .next t) : Frame (storedAt a) s t := by
  obtain ⟨-, rfl⟩ := memWrite_eq_next.1 h
  refine ⟨rfl, fun l hl => ?_⟩
  have other {b : Addr} (hb : b ≠ a) : b.toNat ≠ a.toNat := fun e => hb (BitVec.eq_of_toNat_eq e)
  cases l with
  | cell b =>
    have hb : b ≠ a := fun e => hl (by simp [storedAt, e])
    simp only [State.observe, State.cell, readCell_writeCell_ne s.mem w (other hb)]
  | mark b =>
    have hb : b ≠ a := fun e => hl (by simp [storedAt, e])
    simp only [State.observe, List.contains_eq_mem, mem_addAddress, other hb, false_or]
  | _ => rfl

theorem frame_memWriteWide (h : memWriteWide a v s = .next t) : Frame (storedAt a ++ storedAt (a + 1)) s t := by
  obtain ⟨u, first, second⟩ := andThen_eq_next.1 h
  exact (frame_memWrite first).trans (frame_memWrite second)

theorem frame_link (h : link s = .next t) :
    Frame ([.ssp, .lr] ++ (storedAt (s.ssp - 2) ++ storedAt (s.ssp - 2 + 1))) s t := by
  obtain ⟨u, hu, rfl⟩ := link_eq_next.1 h
  refine Frame.mono (((frame_setSr_ssp s _).trans (frame_memWriteWide hu)).trans (frame_setSr_lr u u.pc)) ?_
  intro l hl
  simp only [List.mem_append, List.mem_cons] at hl ⊢
  tauto

end

/-! ## The places of each instruction -/

/-- The places an instruction may change beside its flags and the cells it stores to. -/
def registersWritten : Instr → List Loc
  | .movur t _ | .mccur t _ _ | .addur t _ | .subur t _ | .notur t | .andur t _ | .orur t _ | .xorur t _ | .shlur t _
  | .rolur t _ | .shrur t _ | .rorur t _ | .movui t _ | .addui t _ | .subui t _ | .andui t _ | .orui t _ | .xorui t _
  | .shlui t _ | .rolui t _ | .shrui t _ | .rorui t _ | .addsr t _ | .subsr t _ | .negsr t | .shrsr t _ | .movsi t _
  | .mccsi t _ _ | .addsi t _ | .subsi t _ | .shrsi t _ | .movdur t _ _ | .ldur t _ | .ldso t _ _ => [.dr t]
  | .ldaso t _ _ | .movaur t _ _ | .addaur t _ | .subaur t _ | .addasr t _ | .subasr t _ | .addasi t _ | .subasi t _
  | .leaso t _ _ | .adraso t _ | .pushur t _ | .pushaur t _ => [.ar t]
  | .popur t b => [.ar b, .dr t]
  | .popaur t b => [.ar b, .ar t]
  | .luiui x _ => ((List.finRange 3).filter fun b => b.val = x.toNat).map .bank
  | .csrrd t _ => [.draws, .dr t]
  | .csrwr _ n => [.csr n]
  | .srhlt => [.halted]
  | .setssp _ => [.ssp]
  | .swi _ => [.lr]
  | .jsrur _ | .jsrui _ | .bsrsr _ | .bsrso _ | .ret | .srmovur _ _ | .srmovaur _ _ | .sraddsi _ _ | .srsubsi _ _
  | .srldso _ _ _ => [.ssp, .lr]
  | .nop | .cmpur _ _ | .tstur _ | .cmpui _ _ | .cmpsr _ _ | .tstsr _ | .cmpsi _ _ | .stur _ _ | .stui _ _ | .stsi _ _
  | .stso _ _ _ | .staso _ _ _ | .cmpaur _ _ | .tstaur _ | .btp | .jccur _ _ | .jccui _ _ | .bccsr _ _ | .bccso _ _
  | .balso _ | .srjccso _ _ _ | .srstso _ _ _ => []

/-- Every place an instruction may change from `s`, PC and the `loaded` bits apart. -/
def footprint (i : Instr) (s : State) : List Loc :=
  registersWritten i ++ braces i ++ (storedCells i s).flatMap storedAt

/-- Where the answer to `s` is a next state, it differs from `s` in the listed places only, and no bank is loaded. -/
def CompletesWithin (c : List Loc) (s : State) (x : Run State) : Prop :=
  ∀ t, x = .next t → Frame c s t ∧ t.loaded = noneLoaded

section
variable {c : List Loc} {s u : State} {x y : Run State}

theorem Frame.completeAt (h : Frame c s u) (a : Addr) : CompletesWithin c s (completeAt a u) := by
  intro t ht
  rw [completeAt_eq_next.1 ht]
  exact ⟨(h.trans (frame_advance u a noneLoaded)).mono (by simp), rfl⟩

theorem Frame.complete (h : Frame c s u) : CompletesWithin c s (complete u) := h.completeAt _

theorem completesWithin_andThen {α : Type} {z : Run α} {f : α → Run State}
    (h : ∀ a, z = .next a → CompletesWithin c s (f a)) : CompletesWithin c s (andThen z f) := by
  intro t ht
  obtain ⟨a, ha, hf⟩ := andThen_eq_next.1 ht
  exact h a ha t hf

theorem completesWithin_needUimm {bs : List (Fin 3)} (h : CompletesWithin c s x) :
    CompletesWithin c s (needUimm bs s x) :=
  fun t ht => h t (needUimm_eq_next.1 ht).2

theorem completesWithin_whenCond {cc : BitVec 4} (hx : CompletesWithin c s x) (hy : CompletesWithin c s y) :
    CompletesWithin c s (whenCond cc s x y) := by
  intro t ht
  obtain ⟨-, h⟩ | ⟨-, h⟩ := whenCond_eq_next.1 ht
  · exact hx t h
  · exact hy t h

theorem completesWithin_withSr {i : Instr} {code : BitVec 2} {go : SpecialReg → Run State}
    (h : ∀ r, s.params.specialReg code = some r → CompletesWithin c s (go r)) :
    CompletesWithin c s (withSr i code s go) := by
  intro t ht
  obtain ⟨r, hr, hgo⟩ := withSr_eq_next.1 ht
  exact h r hr t hgo

theorem completesWithin_completeSr (r : SpecialReg) (v : Addr) :
    CompletesWithin [.ssp, .lr] s (completeSr r v s) := by
  cases r with
  | pc => exact (Frame.refl _ s).completeAt v
  | lr => exact ((frame_setSr_lr s v).mono (by simp)).complete
  | ssp => exact ((frame_setSr_ssp s v).mono (by simp)).complete

theorem completesWithin_shiftZC (op : Word → Nat → Shifted) (t : BitVec 4) (n : Nat) :
    CompletesWithin [.dr t, .z, .c] s (shiftZC op t n s) := by
  unfold shiftZC
  split
  · exact (Frame.refl _ s).complete
  · exact (frame_resultZC s _ _ _).complete

theorem completesWithin_shiftZNC (t : BitVec 4) (n : Nat) :
    CompletesWithin [.dr t, .z, .n, .c] s (shiftZNC t n s) := by
  unfold shiftZNC
  split
  · exact (Frame.refl _ s).complete
  · exact (frame_resultZNC s _ _ _).complete

/-- A store after an update of the state, as the end of an instruction. -/
theorem completesWithin_memWrite {a : Addr} {w : Word} (h : Frame c s u) :
    CompletesWithin (c ++ storedAt a) s (andThen (memWrite a w u) complete) :=
  completesWithin_andThen fun _ hw => (h.trans (frame_memWrite hw)).complete

theorem completesWithin_memWriteWide {a v : Addr} (h : Frame c s u) :
    CompletesWithin (c ++ (storedAt a ++ storedAt (a + 1))) s (andThen (memWriteWide a v u) complete) :=
  completesWithin_andThen fun _ hw => (h.trans (frame_memWriteWide hw)).complete

theorem completesWithin_link {target : State → Addr} :
    CompletesWithin ([.ssp, .lr] ++ (storedAt (s.ssp - 2) ++ storedAt (s.ssp - 2 + 1))) s
      (andThen (link s) fun t => completeAt (target t) t) :=
  completesWithin_andThen fun _ hl => (frame_link hl).completeAt _

end

@[simp] theorem offsetAddr_zero {n : Nat} (a : Addr) : offsetAddr a (0 : BitVec n) = a := by
  simp [offsetAddr, add48, sext48, BitVec.signExtend]

/-- PUSHur stores below the pointer it found. -/
theorem exec_pushur (t : BitVec 2) (u : BitVec 4) (s : State) :
    exec (.pushur t u) s =
      andThen (memWrite (s.getAr t - 1) (s.getDr u) (s.setAr t (s.getAr t - 1))) complete := by
  simp only [exec, execPushur, sub48, State.getAr_setAr_self, State.getDr_setAr]

/-- PUSHAur stores below the pointer it found; the pointer pushed on itself has moved (R222). -/
theorem exec_pushaur (t b : BitVec 2) (s : State) :
    exec (.pushaur t b) s =
      andThen (memWriteWide (s.getAr t - 2) ((s.setAr t (s.getAr t - 2)).getAr b) (s.setAr t (s.getAr t - 2)))
        complete := by
  simp only [exec, execPushaur, sub48, State.getAr_setAr_self, offsetAddr_zero]

/-- Every instruction but LUIui and SRHLT, by the shared operation it is made of. -/
theorem exec_completesWithin (i : Instr) (s : State) (hlui : ∀ x imm, i ≠ .luiui x imm) (hhlt : i ≠ .srhlt) :
    CompletesWithin (footprint i s) s (exec i s) := by
  cases i with
  | luiui x imm => exact absurd rfl (hlui x imm)
  | srhlt => exact absurd rfl hhlt
  | nop | btp => exact (Frame.refl _ s).complete
  | balso => exact (Frame.refl _ s).completeAt _
  | movur | notur | andur | orur | xorur | movdur => exact (frame_resultZ s _ _).complete
  | addur | subur => exact (frame_resultZC s _ _ _).complete
  | movsi => exact (frame_resultZN s _ _).complete
  | addsr | subsr | negsr | addsi | subsi => exact (frame_resultZNV s _ _ _).complete
  | tstur => exact (frame_flagsZ s _).complete
  | tstaur => exact (frame_flagsZ s _).complete
  | cmpur => exact (frame_flagsZC s _ _).complete
  | cmpaur => exact (frame_flagsZC s _ _).complete
  | tstsr => exact (frame_flagsZN s _).complete
  | cmpsr | cmpsi => exact (frame_flagsZNV s _ _).complete
  | shlur | rolur | shrur | rorur | shlui | rolui | shrui | rorui => exact completesWithin_shiftZC _ _ _
  | shrsr | shrsi => exact completesWithin_shiftZNC _ _
  | movui | andui | orui | xorui => exact completesWithin_needUimm (frame_resultZ s _ _).complete
  | addui | subui => exact completesWithin_needUimm (frame_resultZC s _ _ _).complete
  | cmpui => exact completesWithin_needUimm (frame_flagsZC s _ _).complete
  | swi => exact completesWithin_needUimm ((frame_setSr_lr s _).completeAt _)
  | mccur | mccsi => exact completesWithin_whenCond (frame_resultZ s _ _).complete (Frame.refl _ s).complete
  | jccur | bccsr | bccso =>
    exact completesWithin_whenCond ((Frame.refl _ s).completeAt _) (Frame.refl _ s).complete
  | jccui =>
    exact completesWithin_needUimm
      (completesWithin_whenCond ((Frame.refl _ s).completeAt _) (Frame.refl _ s).complete)
  | ldur | ldso => exact completesWithin_andThen fun _ _ => (frame_setDr s _ _).complete
  | ldaso => exact completesWithin_andThen fun _ _ => (frame_setAr s _ _).complete
  | stur | stsi | stso => exact completesWithin_memWrite (Frame.refl [] s)
  | stui => exact completesWithin_needUimm (completesWithin_memWrite (Frame.refl [] s))
  | staso => exact completesWithin_memWriteWide (Frame.refl [] s)
  | movaur | addaur | subaur | addasr | subasr | addasi | subasi | leaso | adraso =>
    exact (frame_setAr s _ _).complete
  | pushur t u => exact exec_pushur t u s ▸ completesWithin_memWrite (frame_setAr s _ _)
  | pushaur t b => exact exec_pushaur t b s ▸ completesWithin_memWriteWide (frame_setAr s _ _)
  | popur => exact completesWithin_andThen fun _ _ => ((frame_setAr s _ _).trans (frame_setDr _ _ _)).complete
  | popaur => exact completesWithin_andThen fun _ _ => ((frame_setAr s _ _).trans (frame_setAr _ _ _)).complete
  | csrrd => exact ((frame_csrDraw s _).trans (frame_resultZ _ _ _)).complete
  | csrwr => exact (frame_csrWrite s _ _).complete
  | setssp => exact (frame_setSr_ssp s _).complete
  | jsrur | bsrsr | bsrso => exact completesWithin_link
  | jsrui => exact completesWithin_needUimm completesWithin_link
  | ret =>
    exact completesWithin_andThen fun _ _ => ((frame_setSr_ssp s _).trans (frame_setSr_lr _ _)).completeAt _
  | srmovur => exact completesWithin_withSr fun _ _ => completesWithin_withSr fun _ _ => completesWithin_completeSr _ _
  | srmovaur | sraddsi | srsubsi => exact completesWithin_withSr fun _ _ => completesWithin_completeSr _ _
  | srjccso =>
    exact completesWithin_withSr fun _ _ =>
      completesWithin_whenCond ((Frame.refl _ s).completeAt _) (Frame.refl _ s).complete
  | srstso t u imm =>
    refine completesWithin_withSr fun r hr => completesWithin_withSr fun _ _ => ?_
    have stores : storedCells (.srstso t u imm) s = [offsetAddr (s.getSr r) imm, offsetAddr (s.getSr r) imm + 1] := by
      rw [storedCells, dataAccess_srstso, hr]
      rfl
    rw [footprint, stores]
    exact completesWithin_memWriteWide (Frame.refl [] s)
  | srldso t u imm =>
    rw [footprint, storedCells_of_not_writesMemory s rfl]
    exact completesWithin_withSr fun _ _ => completesWithin_withSr fun _ _ =>
      completesWithin_andThen fun _ _ => completesWithin_completeSr _ _

theorem exec_luiui_eq_next {x : BitVec 2} {imm : Bank} {s t : State} (h : exec (.luiui x imm) s = .next t) :
    ∃ hx : x.toNat < 3, t =
      { s with bank := s.bank.set x.toNat imm, loaded := s.loaded.set x.toNat true, pc := add48 s.pc 1 } := by
  simp only [exec, execLuiui] at h
  split at h
  · next hx => exact ⟨hx, completeLui_eq_next.1 h⟩
  · cases h

/-- What a completed instruction leaves: every place outside its footprint, and the parameters. -/
theorem exec_frame {i : Instr} {s t : State} (h : exec i s = .next t) : Frame (footprint i s) s t := by
  by_cases hlui : ∃ x imm, i = .luiui x imm
  · obtain ⟨x, imm, rfl⟩ := hlui
    obtain ⟨hx, rfl⟩ := exec_luiui_eq_next h
    refine ((frame_setBank s ⟨x.toNat, hx⟩ imm).trans (frame_advance _ _ _)).mono ?_
    simp [footprint, registersWritten]
  · by_cases hhlt : i = .srhlt
    · subst hhlt
      cases h
      exact frame_setHalted s true
    · exact (exec_completesWithin i s (fun x imm e => hlui ⟨x, imm, e⟩) hhlt t h).1

/-- The flags of R27. -/
def flagPlaces : List Loc := [.z, .c, .n, .v]

theorem braces_subset_flagPlaces (i : Instr) : braces i ⊆ flagPlaces := by
  cases i <;> simp [braces, flagPlaces]

theorem flag_not_mem_registersWritten {i : Instr} {l : Loc} (hl : l ∈ flagPlaces) : l ∉ registersWritten i := by
  simp only [flagPlaces, List.mem_cons, List.not_mem_nil, or_false] at hl
  obtain rfl | rfl | rfl | rfl := hl
  all_goals cases i <;> simp [registersWritten]

theorem mem_footprint {i : Instr} {s : State} {l : Loc} :
    l ∈ footprint i s ↔ l ∈ registersWritten i ∨ l ∈ braces i ∨ ∃ a ∈ storedCells i s, l = .cell a ∨ l = .mark a := by
  simp [footprint, storedAt]

theorem flag_mem_footprint {i : Instr} {s : State} {l : Loc} (hl : l ∈ flagPlaces) :
    l ∈ footprint i s ↔ l ∈ braces i := by
  have notStored : ¬∃ a ∈ storedCells i s, l = .cell a ∨ l = .mark a := by
    rintro ⟨a, -, rfl | rfl⟩ <;> simp [flagPlaces] at hl
  simp only [mem_footprint, flag_not_mem_registersWritten hl, notStored, false_or, or_false]

/-- The places that are no flag and no cell: the instruction's registers decide. -/
theorem register_mem_footprint {i : Instr} {s : State} {l : Loc} (hl : l ∈ [Loc.lr, .ssp, .sr3, .halted]) :
    l ∈ footprint i s ↔ l ∈ registersWritten i := by
  have notFlag : l ∉ braces i := fun hb => by
    have := braces_subset_flagPlaces i hb
    simp only [List.mem_cons, List.not_mem_nil, or_false] at hl
    obtain rfl | rfl | rfl | rfl := hl <;> simp [flagPlaces] at this
  have notStored : ¬∃ a ∈ storedCells i s, l = .cell a ∨ l = .mark a := by
    rintro ⟨a, -, rfl | rfl⟩ <;> simp at hl
  simp only [mem_footprint, notFlag, notStored, or_false]

theorem sr3_not_mem_registersWritten (i : Instr) : Loc.sr3 ∉ registersWritten i := by
  cases i <;> simp [registersWritten]

theorem halted_mem_registersWritten {i : Instr} (h : Loc.halted ∈ registersWritten i) : i = .srhlt := by
  cases i with
  | srhlt => rfl
  | _ => simp [registersWritten] at h

/-- LR is written by the calls, RET, SWI and micro-operations. -/
theorem lr_mem_registersWritten {i : Instr} (h : Loc.lr ∈ registersWritten i) :
    isUop i = true ∨ isCall i = true ∨ i = .ret ∨ ∃ imm, i = .swi imm := by
  cases i with
  | swi imm => exact .inr (.inr (.inr ⟨imm, rfl⟩))
  | _ => simp [registersWritten, isUop, isCall] at h ⊢

/-- SSP is written by the calls, RET, SETSSP and micro-operations. -/
theorem ssp_mem_registersWritten {i : Instr} (h : Loc.ssp ∈ registersWritten i) :
    isUop i = true ∨ isCall i = true ∨ i = .ret ∨ ∃ b, i = .setssp b := by
  cases i with
  | setssp b => exact .inr (.inr (.inr ⟨b, rfl⟩))
  | _ => simp [registersWritten, isUop, isCall] at h ⊢

/-! ## Who changes what -/

/-- Settles O3: `halted` is in the footprint of SRHLT alone. -/
theorem onlyHaltChangesHalted : Obligations.OnlyHaltChangesHalted := by
  intro i s t h
  by_cases hi : i = .srhlt
  · subst hi
    cases h
    simp
  · have notWritten : Loc.halted ∉ footprint i s :=
      mt (register_mem_footprint (by simp)).1 (mt halted_mem_registersWritten hi)
    simp [(exec_frame h).halted notWritten, hi]

/-- Settles O26: every instruction but the two ends with the `loaded` bits clear. -/
theorem onlyLuiLeavesBanksLoaded : Obligations.OnlyLuiLeavesBanksLoaded := by
  intro i s t h hhlt hlui k
  obtain ⟨-, unloaded⟩ := exec_completesWithin i s hlui hhlt t h
  simp [unloaded, noneLoaded]

/-- Settles O56: the flags in an instruction's footprint are those of its braces. -/
theorem flagsOutsideTheBracesAreKept : Obligations.FlagsOutsideTheBracesAreKept :=
  fun _ _ _ h l hl hb => (exec_frame h).2 l (mt (flag_mem_footprint hl).1 hb)

/-- Settles O57: which footprints hold LR, SSP and the fourth special register. -/
theorem specialRegistersHaveFewWriters : Obligations.SpecialRegistersHaveFewWriters := by
  intro i s t h
  refine ⟨fun hu hc hr hswi => ?_, fun hu hc hr hset => ?_, ?_, (exec_frame h).params⟩
  · refine (exec_frame h).lr (mt (register_mem_footprint (by simp)).1 fun hw => ?_)
    obtain e | e | e | ⟨imm, e⟩ := lr_mem_registersWritten hw
    · simp [e] at hu
    · simp [e] at hc
    · exact hr e
    · exact hswi imm e
  · refine (exec_frame h).ssp (mt (register_mem_footprint (by simp)).1 fun hw => ?_)
    obtain e | e | e | ⟨b, e⟩ := ssp_mem_registersWritten hw
    · simp [e] at hu
    · simp [e] at hc
    · exact hr e
    · exact hset b e
  · exact (exec_frame h).sr3 (mt (register_mem_footprint (by simp)).1 (sr3_not_mem_registersWritten i))

end Sys2Proof.Machine
end

section
/-!
How an instruction can be refused: a micro-operation whose code names no special register, LUIui without a bank, and
an unloaded bank (O50 and the first half of O25).
-/

namespace Sys2Proof.Machine

theorem withSr_of_unnamed {i : Instr} {code : BitVec 2} {s : State} {go : SpecialReg → Run State}
    (h : s.params.specialReg code = none) :
    withSr i code s go = .refused (.reservedEncoding (encode i) .noSpecialRegister) := by
  simp only [withSr, h]

theorem withSr_of_named {i : Instr} {code : BitVec 2} {s : State} {go : SpecialReg → Run State} {r : SpecialReg}
    (h : s.params.specialReg code = some r) : withSr i code s go = go r := by
  simp only [withSr, h]

/-- Of two codes, one that names no special register is enough (R26). -/
theorem withSr_withSr_of_unnamed {i : Instr} {c d : BitVec 2} {s : State} {go : SpecialReg → SpecialReg → Run State}
    (h : s.params.specialReg c = none ∨ s.params.specialReg d = none) :
    (withSr i c s fun t => withSr i d s fun r => go t r) =
      .refused (.reservedEncoding (encode i) .noSpecialRegister) := by
  cases hc : s.params.specialReg c with
  | none => exact withSr_of_unnamed hc
  | some t =>
    rw [withSr_of_named hc]
    exact withSr_of_unnamed (h.resolve_left (by simp [hc]))

/-- Settles O50: a code is looked up before anything else is done with it. -/
theorem unnamedSpecialRegisterIsReserved : Obligations.UnnamedSpecialRegisterIsReserved := by
  intro c d b cc i10 i12 i14 s h i hi
  simp only [List.mem_cons, List.not_mem_nil, or_false] at hi
  obtain rfl | rfl | rfl | rfl | rfl | rfl | rfl | rfl | rfl | rfl := hi
  exacts [withSr_withSr_of_unnamed (.inl h), withSr_withSr_of_unnamed (.inr h), withSr_of_unnamed h,
    withSr_of_unnamed h, withSr_of_unnamed h, withSr_of_unnamed h, withSr_withSr_of_unnamed (.inl h),
    withSr_withSr_of_unnamed (.inr h), withSr_withSr_of_unnamed (.inl h), withSr_withSr_of_unnamed (.inr h)]

theorem specialReg_of_not_namesSpecial {p : Params} {code : BitVec 2} (h : p.namesSpecial code = false) :
    p.specialReg code = none := by
  simpa [Params.namesSpecial] using h

/-- An instruction that is not well formed is `ReservedEncoding` of its own word. -/
theorem exec_of_not_wellFormed {i : Instr} {s : State} (h : i.wellFormed s.params = false) :
    ∃ cause, exec i s = .refused (.reservedEncoding (encode i) cause) := by
  cases i with
  | luiui x imm =>
    have hx : ¬x.toNat < 3 := by
      simp only [Instr.wellFormed, bankExists, bne_eq_false_iff_eq] at h
      simp [h]
    exact ⟨_, dif_neg hx⟩
  | srmovaur | srjccso | sraddsi | srsubsi => exact ⟨_, withSr_of_unnamed (specialReg_of_not_namesSpecial h)⟩
  | srmovur | srstso | srldso =>
    refine ⟨_, withSr_withSr_of_unnamed ?_⟩
    exact (Bool.and_eq_false_iff.1 h).imp specialReg_of_not_namesSpecial specialReg_of_not_namesSpecial
  | _ => simp [Instr.wellFormed] at h

theorem EndsAsListed.ne_uimmNotLoaded {i : Instr} {α : Type} {x : Run α} (h : EndsAsListed i x)
    (hi : banksRead i = []) : x ≠ .fault .uimmNotLoaded := by
  cases h with
  | uimmNotLoaded hb => exact absurd hi hb
  | _ => simp

theorem needUimm_eq_uimmNotLoaded {bs : List (Fin 3)} {s : State} {go : Run State}
    (hgo : go ≠ .fault .uimmNotLoaded) :
    needUimm bs s go = .fault .uimmNotLoaded ↔ s.banksLoaded bs = false := by
  change (if s.banksLoaded bs then go else _) = _ ↔ _
  cases s.banksLoaded bs <;> simp [hgo]

theorem exec_ne_uimmNotLoaded {i : Instr} (s : State) (h : banksRead i = []) : exec i s ≠ .fault .uimmNotLoaded := by
  cases hw : i.wellFormed s.params with
  | true => exact (exec_endsAsListed i s hw).ne_uimmNotLoaded h
  | false =>
    obtain ⟨cause, hc⟩ := exec_of_not_wellFormed hw
    simp [hc]

/-- A consumer of `uimm` checks its banks first; what it does then is what an instruction that reads no bank does. -/
theorem exec_eq_uimmNotLoaded (i : Instr) (s : State) :
    exec i s = .fault .uimmNotLoaded ↔ s.banksLoaded (banksRead i) = false := by
  cases i with
  | movui | addui | subui | andui | orui | xorui | cmpui | swi => exact needUimm_eq_uimmNotLoaded (by nofun)
  | stui =>
    exact needUimm_eq_uimmNotLoaded <| EndsAsListed.ne_uimmNotLoaded (i := .stsi 0 0)
      ((memWrite_endsAsListed rfl).andThen fun _ => .next _) rfl
  | jccui cc imm =>
    exact needUimm_eq_uimmNotLoaded <| EndsAsListed.ne_uimmNotLoaded (i := .jccur 0 cc)
      (whenCond_endsAsListed rfl (.next _) (.next _)) rfl
  | jsrui =>
    exact needUimm_eq_uimmNotLoaded <| EndsAsListed.ne_uimmNotLoaded (i := .jsrur 0)
      ((link_endsAsListed rfl).andThen fun _ => .next _) rfl
  | _ => exact iff_of_false (exec_ne_uimmNotLoaded s rfl) (by simp [banksRead, State.banksLoaded])

end Sys2Proof.Machine
end

section
/-!
Words and fields, as far as the check of a program text at load needs them: the consumers of `uimm`, LUIui and the
branches by displacement decode from their own words, and only LUIui's word decodes to it (R71 to R76).
-/

namespace Sys2Proof

open Laws Machine

/-! ## Fields -/

@[simp] theorem field_or (a b : Word) (lo n : Nat) : field (a ||| b) lo n = field a lo n ||| field b lo n :=
  BitVec.extractLsb'_or

@[simp] theorem field_ofNat (k lo n : Nat) (h : k < 2 ^ 24) :
    field (BitVec.ofNat 24 k) lo n = BitVec.ofNat n (k >>> lo) := by
  apply BitVec.eq_of_toNat_eq
  rw [field, BitVec.extractLsb'_toNat, BitVec.toNat_ofNat, BitVec.toNat_ofNat, Nat.mod_eq_of_lt h]

@[simp] theorem field_placed_self {n : Nat} (v : BitVec n) {lo : Nat} (h : lo + n ≤ 24) :
    field (placed v lo) lo n = v := by
  ext i hi
  have hlo : lo + i < 24 := by omega
  simp [field, placed, hlo, BitVec.getLsbD_eq_getElem hi]

@[simp] theorem field_placed_below {m : Nat} (v : BitVec m) {lo lo' n : Nat} (h : lo' + n ≤ lo) :
    field (placed v lo) lo' n = 0 := by
  ext i hi
  have hlo : lo' + i < lo := by omega
  simp [field, placed, hlo]

@[simp] theorem field_placed_above {m : Nat} (v : BitVec m) {lo lo' n : Nat} (h : lo + m ≤ lo') :
    field (placed v lo) lo' n = 0 := by
  ext i hi
  have beyond : v.getLsbD (lo' + i - lo) = false := BitVec.getLsbD_of_ge v _ (by omega)
  simp [field, placed, beyond]

/-- A word is the fields of LUIui's format one after another (R73). -/
theorem word_eq_fields (w : Word) :
    w = field w 20 4 ++ field w 16 4 ++ field w 14 2 ++ field w 12 2 ++ field w 0 12 := by
  unfold field
  rw [BitVec.extractLsb'_append_extractLsb'_eq_extractLsb' (by rfl : 20 = 16 + 4),
    BitVec.extractLsb'_append_extractLsb'_eq_extractLsb' (by rfl : 16 = 14 + 2),
    BitVec.extractLsb'_append_extractLsb'_eq_extractLsb' (by rfl : 14 = 12 + 2)]
  exact (BitVec.extractLsb'_append_extractLsb' (x := w) (w := 12) (len := 12)).symm

/-! ## Instructions from their own words -/

theorem decode_encode_consumer (p : Params) {i : Instr} (h : banksRead i ≠ []) : decode p (encode i) = .ok i := by
  rw [encode_eq_formula]
  cases i with
  | movui | addui | subui | andui | orui | xorui | cmpui => simp [formula, decode, decodeClass1, checked]
  | stui => simp [formula, decode, decodeClass4, checked, anyBitSet]
  | jccui | jsrui => simp [formula, decode, decodeClass7, checked, anyBitSet]
  | swi => simp [formula, decode, decodeClassA, checked, anyBitSet]
  | _ => exact absurd rfl h

theorem decode_encode_luiui (p : Params) {x : BitVec 2} (imm : Bank) (hx : x ≠ 3) :
    decode p (encode (.luiui x imm)) = .ok (.luiui x imm) := by
  rw [encode_eq_formula]
  simpa [formula, decode, decodeClass1, checked, anyBitSet, bankExists] using hx

theorem decode_encode_bccso (p : Params) (cc : BitVec 4) (imm : BitVec 12) :
    decode p (encode (.bccso cc imm)) = .ok (.bccso cc imm) := by
  rw [encode_eq_formula]
  simp [formula, decode, decodeClass7, checked]

theorem decode_encode_balso (p : Params) (imm : BitVec 16) : decode p (encode (.balso imm)) = .ok (.balso imm) := by
  rw [encode_eq_formula]
  simp [formula, decode, decodeClass7, checked]

theorem decode_encode_bsrso (p : Params) (imm : BitVec 16) : decode p (encode (.bsrso imm)) = .ok (.bsrso imm) := by
  rw [encode_eq_formula]
  simp [formula, decode, decodeClass7, checked]

/-! ## The words of LUIui -/

theorem decodeClass1_eq_luiui {p : Params} {w : Word} {x : BitVec 2} {imm : Bank}
    (h : decodeClass1 p w = .ok (.luiui x imm)) :
    field w 16 4 = 0 ∧ (p.reservedBitsStrict = true → field w 12 2 = 0) ∧ field w 14 2 = x ∧ field w 0 12 = imm := by
  unfold decodeClass1 at h
  split at h
  case h_1 hsub =>
    split at h
    · simp only [checked_eq_ok, Instr.luiui.injEq] at h
      obtain ⟨reserved, hx, himm⟩ := h
      exact ⟨hsub, fun hp => by simpa [anyBitSet] using reserved hp, hx, himm⟩
    · cases h
  all_goals simp [checked_eq_ok] at h

/-- LUIui is of opclass 0001: no other opclass decodes to it. -/
theorem opclass_of_decode_luiui {p : Params} {w : Word} {x : BitVec 2} {imm : Bank}
    (h : decode p w = .ok (.luiui x imm)) : field w 20 4 = 1 ∧ decodeClass1 p w = .ok (.luiui x imm) := by
  unfold decode at h
  split at h
  case h_2 hclass => exact ⟨hclass, h⟩
  case h_1 | h_3 | h_4 | h_5 | h_6 | h_7 | h_8 | h_9 | h_10 | h_11 =>
    simp only [decodeClass0, decodeClass2, decodeClass3, decodeClass4, decodeClass5, decodeClass6, decodeClass7,
      decodeClass8, decodeClass9, decodeClassA] at h
    split at h <;> simp [checked_eq_ok] at h
  case h_12 =>
    split at h
    · unfold decodeClassF at h; split at h <;> simp [checked_eq_ok, named_eq_ok] at h
    · cases h
  case h_13 => cases h

/-- With strict RESERVED bits, only its own word decodes to a LUIui. -/
theorem eq_encode_of_decode_luiui {p : Params} {w : Word} {x : BitVec 2} {imm : Bank}
    (hp : p.reservedBitsStrict = true) (h : decode p w = .ok (.luiui x imm)) : w = encode (.luiui x imm) := by
  obtain ⟨opclass, h1⟩ := opclass_of_decode_luiui h
  obtain ⟨subop, reserved, rfl, rfl⟩ := decodeClass1_eq_luiui h1
  refine (word_eq_fields w).trans ?_
  rw [opclass, subop, reserved hp]
  rfl

end Sys2Proof
end

section
/-!
The check of a program text at load, for a consumer of `uimm` and the run of LUIui before it (the second half of O25):
which banks a run loads, which words lie inside it, and where the branches of the text lead.
-/

namespace Sys2Proof.Machine

section
variable {p : Params} {base : Addr} {run : LuiRun} {text before after : List Word} {luis : List (BitVec 2 × Bank)}

theorem decodeText_encode_luiui (p : Params) {x : BitVec 2} (imm : Bank) (hx : x ≠ 3) :
    decodeText p (encode (.luiui x imm)) = .ok (.luiui x imm) :=
  decode_encode_luiui _ imm hx

theorem decodeText_encode_consumer (p : Params) {i : Instr} (h : banksRead i ≠ []) :
    decodeText p (encode i) = .ok i :=
  decode_encode_consumer _ h

/-! ## What a run loads -/

/-- A word that is no LUIui breaks the run. -/
theorem runAfter_of_not_luiui {w : Word} (h : ∀ x imm, w ≠ encode (.luiui x imm)) :
    runAfter run (decodeText p w) = noRun := by
  cases hd : decodeText p w with
  | error => rfl
  | ok i =>
    cases i with
    | luiui x imm => exact absurd (eq_encode_of_decode_luiui rfl hd) (h x imm)
    | _ => rfl

theorem runThrough_of_endsInNoLui (h : EndsInNoLui text) : runThrough p noRun text = noRun := by
  obtain rfl | ⟨init, w, rfl⟩ := List.eq_nil_or_concat text
  · rfl
  · rw [List.concat_eq_append] at h ⊢
    rw [runThrough_append, runThrough_cons, runThrough_nil]
    refine runAfter_of_not_luiui fun x imm e => h x imm ?_
    rw [List.getLast?_concat, e]

/-- A run that goes on with LUIui of other banks does not load the bank. -/
theorem runThrough_luiWords_of_absent (hx : ∀ l ∈ luis, l.1 ≠ 3) {b : Fin 3} (hb : ∀ l ∈ luis, l.1.toNat ≠ b.val) :
    (runThrough p run (luiWords luis))[b] = run[b] := by
  induction luis generalizing run with
  | nil => rfl
  | cons l luis ih =>
    obtain ⟨hl, hrest⟩ := List.forall_mem_cons.1 hx
    obtain ⟨hbl, hbrest⟩ := List.forall_mem_cons.1 hb
    change (runThrough p (runAfter run (decodeText p (encode (.luiui l.1 l.2)))) (luiWords luis))[b] = _
    rw [ih hrest hbrest, decodeText_encode_luiui p l.2 hl, runAfter_luiui run hl, if_neg hbl]

/-- LUIui give no ground to refuse a text. -/
theorem ground_luiWords (hx : ∀ l ∈ luis, l.1 ≠ 3) :
    (textWords p base run (luiWords luis)).findSome? (TextWord.ground p) = none := by
  induction luis generalizing base run with
  | nil => rfl
  | cons l luis ih =>
    obtain ⟨hl, hrest⟩ := List.forall_mem_cons.1 hx
    have hd := decodeText_encode_luiui p l.2 hl
    change (textWords p base run (encode (.luiui l.1 l.2) :: luiWords luis)).findSome? _ = _
    rw [textWords_cons, List.findSome?_cons]
    have : (textWordAt p base run (encode (.luiui l.1 l.2))).ground p = none := by
      simp [TextWord.ground, hd]
    rw [this]
    exact ih hrest

theorem endOf_append_luiWords (base : Addr) (before : List Word) (luis : List (BitVec 2 × Bank)) :
    endOf base (before ++ luiWords luis) = wordAddr base (before.length + luis.length) := by
  simp [endOf, wordAddr, luiWords]

/-- A consumer whose own run leaves out a bank it reads is refused (U1). -/
theorem refusedAtLoad_of_bank_missing {i : Instr} {b : Fin 3} (hb : b ∈ banksRead i) (hx : ∀ l ∈ luis, l.1 ≠ 3)
    (hbefore : refusedAtLoad p base before = none) (hends : EndsInNoLui before)
    (hmissing : ∀ l ∈ luis, l.1.toNat ≠ b.val) :
    refusedAtLoad p base (before ++ luiWords luis ++ encode i :: after) =
      some (.luiRunMissing (wordAddr base (before.length + luis.length))) := by
  rw [← endOf_append_luiWords]
  have noGround : (textWords p base noRun (before ++ luiWords luis)).findSome? (TextWord.ground p) = none := by
    rw [textWords_append, List.findSome?_append, ground_luiWords hx,
      List.findSome?_eq_none_iff.2 (refusedAtLoad_eq_none.1 hbefore).1, Option.none_or]
  refine refusedAtLoad_of_first_ground noGround (ground_of_bank_missing (i := i) (b := b) ?_ hb ?_)
  · exact decodeText_encode_consumer p (List.ne_nil_of_mem hb)
  · rw [runThrough_append, runThrough_of_endsInNoLui hends, runThrough_luiWords_of_absent hx hmissing]
    simp [noRun]

/-! ## What lies inside a run -/

theorem leadsToConsumer_luiWords {i : Instr} (hi : banksRead i ≠ []) (hx : ∀ l ∈ luis, l.1 ≠ 3) :
    leadsToConsumer (textWords p base run (luiWords luis ++ encode i :: after)) = true := by
  induction luis generalizing base run with
  | nil => exact leadsToConsumer_consumer (decodeText_encode_consumer p hi) hi _
  | cons l luis ih =>
    obtain ⟨hl, hrest⟩ := List.forall_mem_cons.1 hx
    exact (leadsToConsumer_luiui (decodeText_encode_luiui p l.2 hl) _).trans (ih hrest)

/-- After at least one LUIui there is a run. -/
theorem runThrough_luiWords_ne (hne : luis ≠ []) (hx : ∀ l ∈ luis, l.1 ≠ 3) :
    runThrough p run (luiWords luis) ≠ noRun := by
  obtain h | ⟨init, l, rfl⟩ := List.eq_nil_or_concat luis
  · exact absurd h hne
  · rw [List.concat_eq_append] at hx ⊢
    have hl : l.1 ≠ 3 := hx l (by simp)
    simp only [luiWords, List.map_append, List.map_cons, List.map_nil, runThrough_append, runThrough_cons,
      runThrough_nil, decodeText_encode_luiui p l.2 hl]
    exact runAfter_luiui_ne _ hl _

/-- A word with LUIui just before it, from which the text goes on to a consumer, lies inside a run. -/
theorem endOf_mem_insideRuns {i : Instr} (hi : banksRead i ≠ []) {first rest : List (BitVec 2 × Bank)}
    (hne : first ≠ []) (hfirst : ∀ l ∈ first, l.1 ≠ 3) (hrest : ∀ l ∈ rest, l.1 ≠ 3) :
    endOf base (before ++ luiWords first) ∈ insideRuns
      (textWords p base noRun ((before ++ luiWords first) ++ (luiWords rest ++ encode i :: after))) := by
  have leads := leadsToConsumer_luiWords (p := p) (base := endOf base (before ++ luiWords first))
    (run := runThrough p noRun (before ++ luiWords first)) (after := after) hi hrest
  have hrun : runThrough p noRun (before ++ luiWords first) ≠ noRun := by
    rw [runThrough_append]
    exact runThrough_luiWords_ne hne hfirst
  obtain ⟨w, tail, hw⟩ : ∃ w tail, luiWords rest ++ encode i :: after = w :: tail :=
    List.exists_cons_of_ne_nil (by simp)
  rw [hw, textWords_cons] at leads
  rw [textWords_append, hw, textWords_cons]
  exact mem_insideRuns (x := textWordAt ..) hrun leads

/-- The words of a run of LUIui and its consumer but the first lie inside the run. -/
theorem wordAddr_mem_insideRuns {i : Instr} (hi : banksRead i ≠ []) (hx : ∀ l ∈ luis, l.1 ≠ 3) {k : Nat}
    (hlo : before.length < k) (hhi : k ≤ before.length + luis.length) :
    wordAddr base k ∈ insideRuns (textWords p base noRun (before ++ luiWords luis ++ encode i :: after)) := by
  obtain ⟨m, rfl⟩ := Nat.exists_eq_add_of_le hlo.le
  have haddr : endOf base (before ++ luiWords (luis.take m)) = wordAddr base (before.length + m) := by
    rw [endOf_append_luiWords, List.length_take, Nat.min_eq_left (by omega)]
  have hsplit : before ++ luiWords luis ++ encode i :: after =
      (before ++ luiWords (luis.take m)) ++ (luiWords (luis.drop m) ++ encode i :: after) := by
    have : luiWords luis = luiWords (luis.take m) ++ luiWords (luis.drop m) := by
      rw [luiWords, luiWords, luiWords, ← List.map_append, List.take_append_drop]
    rw [this, List.append_assoc, List.append_assoc, List.append_assoc]
  have hne : luis.take m ≠ [] := List.ne_nil_of_length_pos (by rw [List.length_take]; omega)
  rw [hsplit, ← haddr]
  exact endOf_mem_insideRuns hi hne (fun l hl => hx l (List.mem_of_mem_take hl))
    fun l hl => hx l (List.mem_of_mem_drop hl)

/-! ## Where a text branches -/

theorem resetPc_not_mem_insideRuns (h : refusedAtLoad p base text = none) :
    p.resetPc ∉ insideRuns (textWords p base noRun text) :=
  (refusedAtLoad_eq_none.1 h).2 _ List.mem_cons_self

theorem target_not_mem_insideRuns {w : Word} {i : Instr} {a : Addr}
    (h : refusedAtLoad p base (before ++ w :: after) = none) (hd : decodeText p w = .ok i)
    (ht : branchTarget p (endOf base before) (runThrough p noRun before) i = some a) :
    a ∉ insideRuns (textWords p base noRun (before ++ w :: after)) := by
  refine (refusedAtLoad_eq_none.1 h).2 a (List.mem_cons_of_mem _ (List.mem_filterMap.2 ?_))
  refine ⟨textWordAt p (endOf base before) (runThrough p noRun before) w, ?_, ?_⟩
  · rw [textWords_append, textWords_cons]
    exact List.mem_append_right _ List.mem_cons_self
  · rw [TextWord.target, textWordAt_decoded, hd]
    exact ht

/-- The target of a word whose branch does not depend on the run before it, by the word's number. -/
theorem displacement_not_mem_insideRuns {w : Word} {i : Instr} {a : Addr} {j : Nat}
    (h : refusedAtLoad p base text = none) (hj : text[j]? = some w) (hd : decodeText p w = .ok i)
    (ht : ∀ run, branchTarget p (wordAddr base j) run i = some a) :
    a ∉ insideRuns (textWords p base noRun text) := by
  obtain ⟨hlt, rfl⟩ := List.getElem?_eq_some_iff.1 hj
  have hsplit : text = text.take j ++ text[j] :: text.drop (j + 1) := by
    rw [← List.drop_eq_getElem_cons hlt, List.take_append_drop]
  have haddr : endOf base (text.take j) = wordAddr base j := by
    rw [endOf, List.length_take, Nat.min_eq_left hlt.le, wordAddr]
  rw [hsplit] at h ⊢
  exact target_not_mem_insideRuns h hd (haddr ▸ ht _)

/-- The LUIui of a 48-bit immediate load all of its upper parts. -/
theorem runAddress_splitImm48 (a : Addr) :
    runAddress (runThrough p run (luiWords
      [(2, a.extractLsb' 36 12), (1, a.extractLsb' 24 12), (0, a.extractLsb' 12 12)])) (a.extractLsb' 0 12) = some a := by
  have parts : a.extractLsb' 36 12 ++ a.extractLsb' 24 12 ++ a.extractLsb' 12 12 ++ a.extractLsb' 0 12 = a := by
    rw [BitVec.extractLsb'_append_extractLsb'_eq_extractLsb' (by rfl : 36 = 24 + 12),
      BitVec.extractLsb'_append_extractLsb'_eq_extractLsb' (by rfl : 24 = 12 + 12)]
    exact BitVec.extractLsb'_append_extractLsb' (x := a) (w := 36) (len := 12)
  have h2 := decodeText_encode_luiui p (x := 2) (a.extractLsb' 36 12) (by decide)
  have h1 := decodeText_encode_luiui p (x := 1) (a.extractLsb' 24 12) (by decide)
  have h0 := decodeText_encode_luiui p (x := 0) (a.extractLsb' 12 12) (by decide)
  simp only [luiWords, List.map_cons, List.map_nil, runThrough_cons, runThrough_nil, h2, h1, h0]
  simpa [runAfter, runAddress] using parts

/-- A jump to a 48-bit immediate with the LUIui of its address leads to no word inside a run. -/
theorem jumpTarget_not_mem_insideRuns {a : Addr} {last : BitVec 12 → Instr}
    (hlast : last = .jsrui ∨ last = .swi ∨ ∃ cc, last = .jccui cc) (h : refusedAtLoad p base text = none)
    (ht : (splitImm48 a last).map encode <:+: text) : a ∉ insideRuns (textWords p base noRun text) := by
  obtain ⟨pre, post, rfl⟩ := ht
  have consumer : banksRead (last (a.extractLsb' 0 12)) ≠ [] := by
    obtain rfl | rfl | ⟨cc, rfl⟩ := hlast <;> exact List.cons_ne_nil _ _
  have target (pc : Addr) (r : LuiRun) :
      branchTarget p pc r (last (a.extractLsb' 0 12)) = runAddress r (a.extractLsb' 0 12) := by
    obtain rfl | rfl | ⟨cc, rfl⟩ := hlast <;> rfl
  have hsplit : pre ++ (splitImm48 a last).map encode ++ post =
      (pre ++ luiWords [(2, a.extractLsb' 36 12), (1, a.extractLsb' 24 12), (0, a.extractLsb' 12 12)]) ++
        encode (last (a.extractLsb' 0 12)) :: post := by
    simp [splitImm48, luiWords]
  rw [hsplit] at h ⊢
  refine target_not_mem_insideRuns h (decodeText_encode_consumer p consumer) ?_
  rw [target, runThrough_append, runAddress_splitImm48]

end

/-- Settles O25: an instruction's own check of its banks, and what the check of a text at load says of its words. -/
theorem unloadedBankIsUndefined : Obligations.UnloadedBankIsUndefined := by
  refine ⟨exec_eq_uimmNotLoaded, fun p base before after luis i hi hx => ⟨?_, fun h k hlo hhi => ?_⟩⟩
  · rintro hbefore hends ⟨b, hb, hmissing⟩
    exact refusedAtLoad_of_bank_missing hb hx hbefore hends hmissing
  have inside := wordAddr_mem_insideRuns (p := p) (base := base) (after := after) hi hx hlo hhi
  refine ⟨?_, fun j cc imm hj => ?_, fun j imm hj => ?_, fun a last hlast ht => ?_⟩
  · exact (ne_of_mem_of_not_mem inside (resetPc_not_mem_insideRuns h)).symm
  · have outside := displacement_not_mem_insideRuns h hj (decode_encode_bccso _ cc imm) fun _ => rfl
    exact (ne_of_mem_of_not_mem inside outside).symm
  · obtain hj | hj := hj
    · have outside := displacement_not_mem_insideRuns h hj (decode_encode_balso _ imm) fun _ => rfl
      exact (ne_of_mem_of_not_mem inside outside).symm
    · have outside := displacement_not_mem_insideRuns h hj (decode_encode_bsrso _ imm) fun _ => rfl
      exact (ne_of_mem_of_not_mem inside outside).symm
  · exact (ne_of_mem_of_not_mem inside (jumpTarget_not_mem_insideRuns hlast h ht)).symm

end Sys2Proof.Machine
end

section
/-!
Condition codes (O54, O55): a truth table made from a test of the flags answers as the test does, and the code of `AL`
holds under every table that is as R42 asks.
-/

namespace Sys2Proof.Machine

/-! ## Truth tables -/

theorem flagsIndex_lt (f : Flags) : flagsIndex f < 16 := by
  obtain ⟨z, c, n, v⟩ := f
  cases z <;> cases c <;> cases n <;> cases v <;> decide

/-- The places of a truth table stand for the flag valuations, each for one. -/
@[simp] theorem flagsAt_flagsIndex (f : Flags) : flagsAt (flagsIndex f) = f := by
  obtain ⟨z, c, n, v⟩ := f
  cases z <;> cases c <;> cases n <;> cases v <;> decide

/-- Setting the bits of the listed places that pass a test sets those and keeps the others. -/
theorem getLsbD_foldl_setBit (test : Nat → Bool) (places : List Nat) (t : CondTruth) {k : Nat} (hk : k < 16) :
    (places.foldl (fun (t : CondTruth) i => if test i then t ||| (1 <<< i) else t) t).getLsbD k =
      (t.getLsbD k || decide (k ∈ places) && test k) := by
  induction places generalizing t with
  | nil => simp
  | cons i places ih =>
    rw [List.foldl_cons, ih]
    have bit : (BitVec.ofNat 16 (1 <<< i)).getLsbD k = decide (k = i) := by
      rw [BitVec.getLsbD_ofNat, decide_eq_true hk, Bool.true_and, Nat.one_shiftLeft, Nat.testBit_two_pow]
      simp only [eq_comm]
    have split : (if test i then t ||| BitVec.ofNat 16 (1 <<< i) else t).getLsbD k =
        (t.getLsbD k || decide (k = i) && test k) := by
      by_cases hki : k = i
      · subst hki
        cases test k <;> simp [bit]
      · cases test i <;> simp [bit, hki]
    refine (congrArg (· || _) split).trans ?_
    simp only [List.mem_cons, Bool.decide_or, Bool.and_or_distrib_right, Bool.or_assoc]

/-- A truth table holds where the test it was made from does (R43). -/
theorem getLsbD_condTruth (holds : Flags → Bool) (f : Flags) :
    (condTruth holds).getLsbD (flagsIndex f) = holds f := by
  rw [condTruth, getLsbD_foldl_setBit (fun i => holds (flagsAt i)) _ _ (flagsIndex_lt f)]
  simp [flagsIndex_lt]

theorem ccHolds_of_condTruth {p : Params} {cc : BitVec 4} {holds : Flags → Bool}
    (h : p.ccTable[cc.toNat]'cc.isLt = some (condTruth holds)) (f : Flags) :
    ccHolds p cc f = some (holds f) := by
  rw [ccHolds, h, Option.map_some, getLsbD_condTruth]

/-- Settles O55: the entries of the default table are made from the tests that R43 lists. -/
theorem defaultConditionsTestTheFlags : Obligations.DefaultConditionsTestTheFlags := by
  intro f
  have equal (a b : Bool) : decide (a = b) = (a == b) := by cases a <;> cases b <;> rfl
  have differ (a b : Bool) : decide (a ≠ b) = (a != b) := by cases a <;> cases b <;> rfl
  simp only [equal, differ]
  refine ⟨?_, ?_, ?_, ?_, ?_, ?_, ?_, ?_, ?_, ?_, ?_, ?_, ?_, ?_, ?_, rfl⟩
  all_goals
    apply ccHolds_of_condTruth
    rfl

/-! ## The code of AL -/

section
variable {p : Params} {s : State} {yes no : Run State} {cc : BitVec 4}

theorem ccHolds_ccAL (h : paramsWf p = true) (f : Flags) : ccHolds p p.ccAL f = some true := by
  simp only [paramsWf, Bool.and_eq_true, beq_iff_eq] at h
  obtain ⟨-, always⟩ := h
  rw [ccHolds, always, Option.map_some, BitVec.getLsbD_allOnes, decide_eq_true (flagsIndex_lt f)]

theorem whenCond_of_holds (h : ccHolds s.params cc s.flags = some true) : whenCond cc s yes no = yes := by
  simp only [whenCond, h]

theorem whenCond_ccAL (h : paramsWf s.params = true) : whenCond s.params.ccAL s yes no = yes :=
  whenCond_of_holds (ccHolds_ccAL h s.flags)

end

/-- A sign-extended displacement leads to the same address from any width that holds it. -/
theorem offsetAddr_signExtend {n m : Nat} (a : Addr) (imm : BitVec n) (h : n ≤ m) :
    offsetAddr a (imm.signExtend m) = offsetAddr a imm := by
  simp only [offsetAddr, sext48, BitVec.signExtend.eq_1 48, BitVec.toInt_signExtend_of_le h]

/-- Settles O54: with the code of `AL`, a conditional instruction takes its first branch. -/
theorem alwaysConditionAlwaysHolds : Obligations.AlwaysConditionAlwaysHolds := by
  intro t u i12 s h
  refine ⟨ccHolds_ccAL h s.flags, whenCond_ccAL h, (whenCond_ccAL h).trans ?_⟩
  change _ = completeAt (offsetAddr s.pc (i12.signExtend 16)) s
  rw [offsetAddr_signExtend s.pc i12 (by decide)]

end Sys2Proof.Machine
end

section
/-!
The lists of micro-operations (O51): an item that completes hands its result on, with PC and the `loaded` bits as they
were, and the three items of the link sequence are `link`.
-/

namespace Sys2Proof.Machine

/-! ## Sequencing -/

theorem andThen_assoc {α β γ : Type} (x : Run α) (f : α → Run β) (g : β → Run γ) :
    andThen (andThen x f) g = andThen x fun a => andThen (f a) g := by
  cases x <;> rfl

theorem andThen_congr {α β : Type} {x : Run α} {f g : α → Run β} (h : ∀ a, x = .next a → f a = g a) :
    andThen x f = andThen x g := by
  cases x with
  | next a => exact h a rfl
  | fault | refused => rfl

/-- An item that completes from the result of `x`, where `x` leaves PC and the `loaded` bits, is `x` (R41). -/
theorem runUops_cons {i j : Instr} {is : List Instr} {s : State} {x : Run State} (hi : exec i s = andThen x complete)
    (keeps : ∀ u, x = .next u → u.pc = s.pc ∧ u.loaded = s.loaded) :
    runUops (i :: j :: is) s = andThen x (runUops (j :: is)) := by
  rw [runUops, hi, andThen_assoc]
  refine andThen_congr fun u hu => ?_
  obtain ⟨hpc, hloaded⟩ := keeps u hu
  rw [← hpc, ← hloaded]
  rfl

theorem runUops_cons_next {i j : Instr} {is : List Instr} {s u : State} (hi : exec i s = complete u)
    (hpc : u.pc = s.pc) (hloaded : u.loaded = s.loaded) : runUops (i :: j :: is) s = runUops (j :: is) u :=
  runUops_cons (x := .next u) hi fun _ h => by cases h; exact ⟨hpc, hloaded⟩

theorem memWriteWide_keeps {a v : Addr} {s u : State} (h : memWriteWide a v s = .next u) :
    u.pc = s.pc ∧ u.loaded = s.loaded := by
  obtain ⟨-, -, rfl⟩ := memWriteWide_eq_next.1 h
  exact ⟨rfl, rfl⟩

theorem link_keeps {s u : State} (h : link s = .next u) : u.params = s.params ∧ u.loaded = s.loaded := by
  obtain ⟨v, hv, rfl⟩ := link_eq_next.1 h
  exact ⟨(frame_link h).params, (memWriteWide_keeps hv).2⟩

/-! ## The codes of the special registers -/

section
variable {p : Params}

theorem specialReg_pc (p : Params) : p.specialReg p.srIndex.pc = some .pc := if_pos rfl

theorem specialReg_lr (h : paramsWf p = true) : p.specialReg p.srIndex.lr = some .lr := by
  simp only [paramsWf, Bool.and_eq_true, bne_iff_ne] at h
  obtain ⟨⟨⟨hpl, -⟩, -⟩, -⟩ := h
  simp [Params.specialReg, hpl.symm]

theorem specialReg_ssp (h : paramsWf p = true) : p.specialReg p.srIndex.ssp = some .ssp := by
  simp only [paramsWf, Bool.and_eq_true, bne_iff_ne] at h
  obtain ⟨⟨⟨-, hps⟩, hls⟩, -⟩ := h
  simp [Params.specialReg, hps.symm, hls.symm]

end

/-! ## The micro-operations on codes that name a register -/

section
variable {s : State} {ct cs : BitVec 2} {t u : SpecialReg}

theorem exec_srmovur (ht : s.params.specialReg ct = some t) (hs : s.params.specialReg cs = some u) :
    exec (.srmovur ct cs) s = completeSr t (s.getSr u) s :=
  (withSr_of_named ht).trans (withSr_of_named hs)

theorem exec_srmovaur (ht : s.params.specialReg ct = some t) (b : BitVec 2) :
    exec (.srmovaur ct b) s = completeSr t (s.getAr b) s :=
  withSr_of_named ht

theorem exec_srjccso (ht : s.params.specialReg ct = some t) (cc : BitVec 4) (imm : BitVec 10) :
    exec (.srjccso ct cc imm) s = whenCond cc s (completeAt (offsetAddr (s.getSr t) imm) s) (complete s) :=
  withSr_of_named ht

theorem exec_sraddsi (ht : s.params.specialReg ct = some t) (imm : BitVec 14) :
    exec (.sraddsi ct imm) s = completeSr t (add48 (s.getSr t) (sext48 imm)) s :=
  withSr_of_named ht

theorem exec_srsubsi (ht : s.params.specialReg ct = some t) (imm : BitVec 14) :
    exec (.srsubsi ct imm) s = completeSr t (sub48 (s.getSr t) (sext48 imm)) s :=
  withSr_of_named ht

theorem exec_srstso (ht : s.params.specialReg ct = some t) (hs : s.params.specialReg cs = some u)
    (imm : BitVec 12) :
    exec (.srstso ct cs imm) s = andThen (memWriteWide (offsetAddr (s.getSr t) imm) (s.getSr u) s) complete :=
  (withSr_of_named ht).trans (withSr_of_named hs)

theorem exec_srldso (ht : s.params.specialReg ct = some t) (hs : s.params.specialReg cs = some u)
    (imm : BitVec 12) :
    exec (.srldso ct cs imm) s = andThen (memReadWide (offsetAddr (s.getSr u) imm) s) fun v => completeSr t v s :=
  (withSr_of_named ht).trans (withSr_of_named hs)

end

/-! ## The lists -/

/-- The link sequence before the last item of a call (R212). -/
theorem runUops_link {s : State} (h : paramsWf s.params = true) (last : Instr) :
    runUops [.srsubsi s.params.srIndex.ssp 2, .srstso s.params.srIndex.ssp s.params.srIndex.lr 0,
      .srmovur s.params.srIndex.lr s.params.srIndex.pc, last] s = andThen (link s) (exec last) := by
  let s1 := s.setSr .ssp (sub48 (s.getSr .ssp) 2)
  have down : exec (.srsubsi s.params.srIndex.ssp 2) s = complete s1 := exec_srsubsi (specialReg_ssp h) 2
  have store : exec (.srstso s.params.srIndex.ssp s.params.srIndex.lr 0) s1 =
      andThen (memWriteWide (offsetAddr (s1.getSr .ssp) (0 : BitVec 12)) (s1.getSr .lr) s1) complete :=
    exec_srstso (s := s1) (specialReg_ssp h) (specialReg_lr h) 0
  have save {s2 : State} (hs2 : s2.params = s.params) :
      exec (.srmovur s.params.srIndex.lr s.params.srIndex.pc) s2 = complete (s2.setSr .lr (s2.getSr .pc)) := by
    rw [← hs2] at h ⊢
    exact exec_srmovur (specialReg_lr h) (specialReg_pc _)
  rw [runUops_cons_next down rfl rfl, runUops_cons store fun _ hu => memWriteWide_keeps hu, link, andThen_assoc]
  exact andThen_congr fun s2 hs2 => runUops_cons_next (save (frame_memWriteWide hs2).params) rfl rfl

/-- The items of RET (R211). -/
theorem exec_ret_eq_runUops {s : State} (h : paramsWf s.params = true) :
    exec .ret s = runUops [.sraddsi s.params.srIndex.ssp 2, .srldso s.params.srIndex.lr s.params.srIndex.ssp (-2),
      .srjccso s.params.srIndex.lr s.params.ccAL 1] s := by
  let s1 := s.setSr .ssp (add48 (s.getSr .ssp) 2)
  let popped := andThen (memReadWide (offsetAddr (s1.getSr .ssp) (-2 : BitVec 12)) s1) fun v =>
    Host.Outcome.next (s1.setSr .lr v)
  have up : exec (.sraddsi s.params.srIndex.ssp 2) s = complete s1 := exec_sraddsi (specialReg_ssp h) 2
  have load : exec (.srldso s.params.srIndex.lr s.params.srIndex.ssp (-2)) s1 = andThen popped complete :=
    (exec_srldso (s := s1) (specialReg_lr h) (specialReg_ssp h) _).trans
      (andThen_assoc _ (fun v => .next (s1.setSr .lr v)) complete).symm
  have keeps (u : State) (hu : popped = .next u) : u.pc = s1.pc ∧ u.loaded = s1.loaded := by
    obtain ⟨v, -, hv⟩ := andThen_eq_next.1 hu
    cases hv
    exact ⟨rfl, rfl⟩
  rw [runUops_cons_next up rfl rfl, runUops_cons load keeps, andThen_assoc]
  refine andThen_congr fun v _ => ?_
  have jump := exec_srjccso (s := s1.setSr .lr v) (specialReg_lr h) s.params.ccAL 1
  exact (jump.trans (whenCond_ccAL (s := s1.setSr .lr v) h)).symm

/-- A stack helper: the pointer moves, then the access runs (R221 to R224). -/
theorem runUops_pointer {s u : State} {move access : Instr} (h : exec move s = complete u) (hpc : u.pc = s.pc)
    (hloaded : u.loaded = s.loaded) : runUops [move, access] s = exec access u :=
  runUops_cons_next h hpc hloaded

/-- Settles O51: each list item by item. -/
theorem sequencesAreTheirMicroOperations : Obligations.SequencesAreTheirMicroOperations := by
  intro t b d i12 i16 s h
  simp only [runUops_link h]
  have always {u : State} (hu : link s = .next u) {yes no : Run State} : whenCond s.params.ccAL u yes no = yes := by
    rw [← (link_keeps hu).1] at h ⊢
    exact whenCond_ccAL h
  refine ⟨?_, fun hbanks => ?_, ?_, rfl, exec_ret_eq_runUops h, ?_, ?_, ?_, ?_, ?_⟩
  · exact andThen_congr fun u hu => (always hu).symm
  · have jsrui : exec (.jsrui i12) s = andThen (link s) fun u => completeAt (u.uimm48 i12) u := if_pos hbanks
    rw [jsrui]
    refine andThen_congr fun u hu => ?_
    have loaded : exec (.jccui s.params.ccAL i12) u = _ := if_pos ((link_keeps hu).2 ▸ hbanks)
    exact (loaded.trans (always hu)).symm
  · exact andThen_congr fun u hu => (always hu).symm
  · exact .symm (runUops_pointer (u := s.setAr t (sub48 (s.getAr t) 1)) rfl rfl rfl)
  · exact .symm (runUops_pointer (u := s.setAr t (sub48 (s.getAr t) 2)) rfl rfl rfl)
  · exact .symm (runUops_pointer (u := s.setAr b (add48 (s.getAr b) 1)) rfl rfl rfl)
  · exact .symm (runUops_pointer (u := s.setAr b (add48 (s.getAr b) 2)) rfl rfl rfl)
  · exact (exec_srmovaur (specialReg_ssp h) b).symm

end Sys2Proof.Machine
end

section
/-!
Shifts and rotations (O20, O21, O22): what the families of shifts write, and the results and the bits shifted out as
quotients and products, or bit by bit.
-/

namespace Sys2Proof.Machine

/-! ## The families of shifts -/

theorem zeroFlag_iff {w : Nat} (r : BitVec w) : zeroFlag r = true ↔ r = 0 := by
  simp [zeroFlag]

theorem negFlag_iff (r : Word) : negFlag r = true ↔ r.toInt < 0 := by
  rw [negFlag, ← BitVec.msb_eq_getLsbD_last, BitVec.msb_eq_toInt, decide_eq_true_iff]

section
variable {i : Instr} {s : State} {t : BitVec 4} {n : Nat} {op : Word → Nat → Shifted}

theorem runs_writesNothing (h : exec i s = complete s) : Runs i s (WritesNothing s) :=
  ⟨_, h, ⟨rfl, rfl⟩, frame_advance s _ _⟩

theorem runs_of_shiftZC_zero (h : exec i s = shiftZC op t n s) (hn : n = 0) : Runs i s (WritesNothing s) :=
  runs_writesNothing (h.trans (if_pos hn))

theorem runs_of_shiftZNC_zero (h : exec i s = shiftZNC t n s) (hn : n = 0) : Runs i s (WritesNothing s) :=
  runs_writesNothing (h.trans (if_pos hn))

/-- A shift by a count that is not zero writes DRt and `{Z, C}`, both from the shifted value. -/
theorem runs_of_shiftZC (h : exec i s = shiftZC op t n s) (hn : n ≠ 0) :
    Runs i s fun s' => s'.getDr t = (op (s.getDr t) n).r ∧ (s'.flags.z = true ↔ (op (s.getDr t) n).r = 0) ∧
      s'.flags.c = (op (s.getDr t) n).c ∧ Advances s s' ∧ Frame [.dr t, .z, .c] s s' :=
  ⟨_, h.trans (if_neg hn), State.getDr_setDr_self .., zeroFlag_iff _, rfl, ⟨rfl, rfl⟩,
    (frame_resultZC s t _ _).trans (frame_advance _ _ _)⟩

theorem runs_of_shiftZNC (h : exec i s = shiftZNC t n s) (hn : n ≠ 0) :
    Runs i s fun s' => s'.getDr t = (sar (s.getDr t) n).r ∧ (s'.flags.z = true ↔ (sar (s.getDr t) n).r = 0) ∧
      (s'.flags.n = true ↔ (sar (s.getDr t) n).r.toInt < 0) ∧ s'.flags.c = (sar (s.getDr t) n).c ∧ Advances s s' ∧
      Frame [.dr t, .z, .n, .c] s s' :=
  ⟨_, h.trans (if_neg hn), State.getDr_setDr_self .., zeroFlag_iff _, negFlag_iff _, rfl, ⟨rfl, rfl⟩,
    (frame_resultZNC s t _ _).trans (frame_advance _ _ _)⟩

end

/-- The count in a register is its value modulo 32 (R33). -/
theorem countOf_eq (v : Word) : countOf v = v.toNat % 32 := by
  simp [countOf, BitVec.extractLsb'_toNat]

theorem toNat_ne_zero {w : Nat} {x : BitVec w} (h : x ≠ 0) : x.toNat ≠ 0 :=
  fun e => h (BitVec.eq_of_toNat_eq (by simpa using e))

/-! ## Products and quotients -/

theorem shl_c (v : Word) (n : Nat) : (shl v n).c = true ↔ v.toNat * 2 ^ n / 2 ^ 24 % 2 = 1 := by
  rw [shl, Nat.testBit_eq_decide_div_mod_eq, decide_eq_true_iff]

/-- Past the top bit of the value only zeros are shifted out. -/
theorem shr_c (v : Word) (n : Nat) : (shr v n).c = true ↔ v.toNat / 2 ^ (n - 1) % 2 = 1 := by
  have bit : (shr v n).c = v.getLsbD (n - 1) := by
    simp only [shr]
    split
    · exact (BitVec.getLsbD_of_ge v _ (by omega)).symm
    · rfl
  rw [bit, ← BitVec.testBit_toNat, Nat.testBit_eq_decide_div_mod_eq, decide_eq_true_iff]

section
variable {i : Instr} {s : State} {t : BitVec 4} {n : Nat}

theorem runs_of_shl (h : exec i s = shiftZC shl t n s) (hn : n ≠ 0) :
    Runs i s (WritesZC t (BitVec.ofNat 24 ((s.getDr t).toNat * 2 ^ n))
      ((s.getDr t).toNat * 2 ^ n / 2 ^ 24 % 2 = 1) s) := by
  obtain ⟨s', hs', hr, hz, hc, hadv, hframe⟩ := runs_of_shiftZC h hn
  exact ⟨s', hs', hr, hz, hc ▸ shl_c _ n, hadv, hframe⟩

theorem runs_of_shr (h : exec i s = shiftZC shr t n s) (hn : n ≠ 0) :
    Runs i s (WritesZC t (BitVec.ofNat 24 ((s.getDr t).toNat / 2 ^ n))
      ((s.getDr t).toNat / 2 ^ (n - 1) % 2 = 1) s) := by
  obtain ⟨s', hs', hr, hz, hc, hadv, hframe⟩ := runs_of_shiftZC h hn
  exact ⟨s', hs', hr, hz, hc ▸ shr_c _ n, hadv, hframe⟩

end

/-- Settles O20: the two shifts, by a count from a register or from the instruction. -/
theorem shiftsMultiplyAndDivide : Obligations.ShiftsMultiplyAndDivide := by
  intro t u imm s
  rw [← countOf_eq]
  refine ⟨fun h => ⟨?_, ?_⟩, fun h => ⟨?_, ?_⟩, fun h => ⟨?_, ?_⟩, fun h => ⟨?_, ?_⟩⟩
  · exact runs_of_shiftZC_zero rfl h
  · exact runs_of_shiftZC_zero rfl h
  · exact runs_of_shl rfl h
  · exact runs_of_shr rfl h
  · exact runs_of_shiftZC_zero rfl (h ▸ rfl)
  · exact runs_of_shiftZC_zero rfl (h ▸ rfl)
  · exact runs_of_shl rfl (toNat_ne_zero h)
  · exact runs_of_shr rfl (toNat_ne_zero h)

/-! ## Rotations -/

/-- Bit `j` of a left rotation by `n` is the bit `n` places below, modulo 24. -/
theorem getLsbD_rol (v : Word) {n j : Nat} (hn : n < 32) (hj : j < 24) :
    (rol v n).r.getLsbD j = v.getLsbD ((j + 48 - n) % 24) := by
  simp only [rol, BitVec.getLsbD_or, BitVec.getLsbD_shiftLeft, BitVec.getLsbD_ushiftRight, decide_eq_true hj,
    Bool.true_and]
  by_cases hk : j < n % 24
  · have : (j + 48 - n) % 24 = 24 - n % 24 + j := by omega
    simp [hk, this]
  · have : (j + 48 - n) % 24 = j - n % 24 := by omega
    simp [hk, this, BitVec.getLsbD_of_ge v (24 - n % 24 + j) (by omega)]

/-- Bit `j` of a right rotation by `n` is the bit `n` places above, modulo 24. -/
theorem getLsbD_ror (v : Word) {n j : Nat} (hj : j < 24) :
    (ror v n).r.getLsbD j = v.getLsbD ((j + n) % 24) := by
  simp only [ror, BitVec.getLsbD_or, BitVec.getLsbD_shiftLeft, BitVec.getLsbD_ushiftRight, decide_eq_true hj,
    Bool.true_and]
  by_cases hk : n % 24 + j < 24
  · have hlow : j < 24 - n % 24 := by omega
    have : (j + n) % 24 = n % 24 + j := by omega
    simp [hlow, this]
  · have hhigh : ¬j < 24 - n % 24 := by omega
    have : (j + n) % 24 = j - (24 - n % 24) := by omega
    simp [hhigh, this, BitVec.getLsbD_of_ge v (n % 24 + j) (by omega)]

/-- A result made of all the bits of a value is zero when the value is. -/
theorem eq_zero_iff_of_bits {r v : Word} {src dst : Nat → Nat} (hbits : ∀ j < 24, r.getLsbD j = v.getLsbD (src j))
    (hdst : ∀ k < 24, dst k < 24 ∧ src (dst k) = k) : r = 0 ↔ v = 0 := by
  constructor
  · rintro rfl
    refine BitVec.eq_of_getLsbD_eq fun k hk => ?_
    obtain ⟨hlt, hsrc⟩ := hdst k hk
    simpa [hsrc] using (hbits (dst k) hlt).symm
  · rintro rfl
    exact BitVec.eq_of_getLsbD_eq fun j hj => by simp [hbits j hj]

section
variable {i : Instr} {s : State} {t : BitVec 4} {n : Nat}

theorem runs_of_rol (h : exec i s = shiftZC rol t n s) (hn : n ≠ 0) (hlt : n < 32) :
    Runs i s (Rotates t (fun j => (j + 48 - n) % 24) 0 s) := by
  obtain ⟨s', hs', hr, hz, hc, hadv, hframe⟩ := runs_of_shiftZC h hn
  have bits (j : Nat) (hj : j < 24) := getLsbD_rol (s.getDr t) hlt hj
  refine ⟨s', hs', fun j hj => hr ▸ bits j hj, hz.trans ?_, hr ▸ hc, hadv, hframe⟩
  exact eq_zero_iff_of_bits (dst := fun k => (k + n) % 24) bits fun k hk => ⟨by omega, by omega⟩

theorem runs_of_ror (h : exec i s = shiftZC ror t n s) (hn : n ≠ 0) (hlt : n < 32) :
    Runs i s (Rotates t (fun j => (j + n) % 24) 23 s) := by
  obtain ⟨s', hs', hr, hz, hc, hadv, hframe⟩ := runs_of_shiftZC h hn
  have bits (j : Nat) (hj : j < 24) := getLsbD_ror (s.getDr t) (n := n) hj
  refine ⟨s', hs', fun j hj => hr ▸ bits j hj, hz.trans ?_, hr ▸ hc, hadv, hframe⟩
  exact eq_zero_iff_of_bits (dst := fun k => (k + 48 - n) % 24) bits fun k hk => ⟨by omega, by omega⟩

end

/-- Settles O21: the two rotations, by a count from a register or from the instruction. -/
theorem rotationsMoveBitsRound : Obligations.RotationsMoveBitsRound := by
  intro t u imm s
  have hcount : (s.getDr u).toNat % 32 < 32 := Nat.mod_lt _ (by decide)
  rw [← countOf_eq] at hcount ⊢
  refine ⟨fun h => ⟨?_, ?_⟩, fun h => ⟨?_, ?_⟩, fun h => ⟨?_, ?_⟩, fun h => ⟨?_, ?_⟩⟩
  · exact runs_of_shiftZC_zero rfl h
  · exact runs_of_shiftZC_zero rfl h
  · exact runs_of_rol rfl h hcount
  · exact runs_of_ror rfl h hcount
  · exact runs_of_shiftZC_zero rfl (h ▸ rfl)
  · exact runs_of_shiftZC_zero rfl (h ▸ rfl)
  · exact runs_of_rol rfl (toNat_ne_zero h) imm.isLt
  · exact runs_of_ror rfl (toNat_ne_zero h) imm.isLt

/-! ## The arithmetic right shift -/

theorem toInt_sshiftRight_eq_div (v : Word) (n : Nat) : (v.sshiftRight n).toInt = v.toInt / 2 ^ n := by
  rw [BitVec.toInt_sshiftRight, Int.shiftRight_eq_div_pow]
  norm_cast

/-- The quotient of the signed value is the library's arithmetic shift, and its last bit out is the lowest bit of the
shift by one place less. -/
theorem sar_eq (v : Word) (n : Nat) :
    sar v n = { r := v.sshiftRight n, c := (v.sshiftRight (n - 1)).getLsbD 0 } := by
  have bit : (if 24 < n then v.msb else v.getLsbD (n - 1)) = (v.sshiftRight (n - 1)).getLsbD 0 := by
    rw [BitVec.getLsbD_sshiftRight, Nat.add_zero]
    by_cases h : 24 < n
    · rw [if_pos h, if_neg (by omega)]
      simp
    · rw [if_neg h, if_pos (by omega)]
      simp
  rw [sar, ← toInt_sshiftRight_eq_div, BitVec.ofInt_toInt, bit]

/-- The lowest bit of a word is the parity of its signed value. -/
theorem getLsbD_zero_iff (r : Word) : r.getLsbD 0 = true ↔ r.toInt % 2 = 1 := by
  rw [← BitVec.testBit_toNat, Nat.testBit_eq_decide_div_mod_eq, decide_eq_true_iff, BitVec.toInt_eq_toNat_cond]
  split <;> omega

theorem runs_of_sar {i : Instr} {s : State} {t : BitVec 4} {n : Nat} (h : exec i s = shiftZNC t n s) (hn : n ≠ 0) :
    Runs i s (WritesZNC t ((s.getDr t).toInt / 2 ^ n) ((s.getDr t).toInt / 2 ^ (n - 1) % 2 = 1) s) := by
  obtain ⟨s', hs', hr, hz, hneg, hc, hadv, hframe⟩ := runs_of_shiftZNC h hn
  rw [sar_eq] at hr hz hneg hc
  rw [← toInt_sshiftRight_eq_div, ← toInt_sshiftRight_eq_div]
  refine ⟨s', hs', hr ▸ rfl, hz.trans ?_, hneg, hc ▸ getLsbD_zero_iff _, hadv, hframe⟩
  exact (BitVec.toInt_inj (y := 0)).symm

/-- Settles O22: the arithmetic shift, by a count from a register or from the instruction. -/
theorem arithmeticShiftsDivideSigned : Obligations.ArithmeticShiftsDivideSigned := by
  intro t u imm s
  rw [← countOf_eq]
  refine ⟨fun h => ?_, fun h => ?_, fun h => ?_, fun h => ?_⟩
  · exact runs_of_shiftZNC_zero rfl h
  · exact runs_of_sar rfl h
  · exact runs_of_shiftZNC_zero rfl (h ▸ rfl)
  · exact runs_of_sar rfl (toNat_ne_zero h)

end Sys2Proof.Machine
end

section
/-!
LR and SSP are hidden from most instructions (O59): each shared operation answers alike for two states that differ in
nothing else.
-/

namespace Sys2Proof.Machine

/-- The state with other values in LR and SSP. -/
def State.relink (s : State) (x y : Addr) : State := { s with lr := x, ssp := y }

/-- The two answers are alike, what their next states hold in LR and SSP apart. -/
def AlikeButLink (a b : Run State) : Prop :=
  onNext (fun t => { t with lr := 0, ssp := 0 }) a = onNext (fun t => { t with lr := 0, ssp := 0 }) b

section
variable {s : State} {x y : Addr} {a b a' b' : Run State}

theorem AlikeButLink.next {u v : State} (h : u.relink 0 0 = v.relink 0 0) : AlikeButLink (.next u) (.next v) :=
  congrArg Host.Outcome.next h

theorem AlikeButLink.andThen {α : Type} {z : Run α} {f g : α → Run State} (h : ∀ r, AlikeButLink (f r) (g r)) :
    AlikeButLink (andThen z f) (andThen z g) := by
  cases z with
  | next r => exact h r
  | fault | refused => rfl

theorem AlikeButLink.needUimm {bs : List (Fin 3)} (h : AlikeButLink a b) :
    AlikeButLink (needUimm bs (s.relink x y) a) (needUimm bs s b) := by
  change AlikeButLink (Machine.needUimm bs s a) (Machine.needUimm bs s b)
  unfold Machine.needUimm
  split
  · exact h
  · rfl

theorem AlikeButLink.whenCond {cc : BitVec 4} (h : AlikeButLink a b) (h' : AlikeButLink a' b') :
    AlikeButLink (whenCond cc (s.relink x y) a a') (whenCond cc s b b') := by
  change AlikeButLink (Machine.whenCond cc s a a') (Machine.whenCond cc s b b')
  unfold Machine.whenCond
  split
  · exact h
  · exact h'
  · rfl

theorem alikeButLink_shiftZC (op : Word → Nat → Shifted) (t : BitVec 4) (n : Nat) :
    AlikeButLink (shiftZC op t n (s.relink x y)) (shiftZC op t n s) := by
  unfold shiftZC
  split <;> exact .next rfl

theorem alikeButLink_shiftZNC (t : BitVec 4) (n : Nat) :
    AlikeButLink (shiftZNC t n (s.relink x y)) (shiftZNC t n s) := by
  unfold shiftZNC
  split <;> exact .next rfl

theorem alikeButLink_luiui (r : BitVec 2) (imm : BitVec 12) :
    AlikeButLink (execLuiui r imm (s.relink x y)) (execLuiui r imm s) := by
  unfold execLuiui
  split
  · exact .next rfl
  · rfl

theorem csrDraw_relink (n : BitVec 8) : csrDraw n (s.relink x y) = (csrDraw n s).relink x y := by
  change (if csrIsHooked s.params n then _ else _) = _
  unfold csrDraw
  split <;> rfl

theorem csrWrite_relink (n : BitVec 8) (v : Word) : csrWrite n v (s.relink x y) = (csrWrite n v s).relink x y := by
  change (if csrIsHooked s.params n then _ else _) = _
  unfold csrWrite
  split <;> rfl

theorem memWrite_relink (c : Addr) (v : Word) :
    memWrite c v (s.relink x y) = onNext (fun t => t.relink x y) (memWrite c v s) := by
  change (if memAdmits s.params c .write then _ else _) = _
  unfold memWrite
  split <;> rfl

theorem memWriteWide_relink (c v : Addr) :
    memWriteWide c v (s.relink x y) = onNext (fun t => t.relink x y) (memWriteWide c v s) := by
  change andThen (memWrite c (firstCell s.params v) (s.relink x y))
    (fun t => memWrite (add48 c 1) (secondCell s.params v) t) = _
  rw [memWrite_relink, memWriteWide]
  cases memWrite c (firstCell s.params v) s with
  | next u => exact memWrite_relink _ _
  | fault | refused => rfl

theorem alikeButLink_store (c : Addr) (v : Word) :
    AlikeButLink (andThen (memWrite c v (s.relink x y)) complete) (andThen (memWrite c v s) complete) := by
  rw [memWrite_relink]
  cases memWrite c v s <;> rfl

theorem alikeButLink_storeWide (c v : Addr) :
    AlikeButLink (andThen (memWriteWide c v (s.relink x y)) complete) (andThen (memWriteWide c v s) complete) := by
  rw [memWriteWide_relink]
  cases memWriteWide c v s <;> rfl

end

/-- The instructions outside calls, RET and micro-operations, by the shared operation they are made of. -/
theorem exec_relink_alike (i : Instr) (s : State) (x y : Addr) (hu : isUop i = false) (hc : isCall i = false)
    (hr : i ≠ .ret) : AlikeButLink (exec i (s.relink x y)) (exec i s) := by
  cases i with
  | nop | movur | addur | subur | notur | andur | orur | xorur | cmpur | tstur | addsr | subsr | negsr | cmpsr
  | tstsr | movsi | addsi | subsi | cmpsi | movaur | movdur | addaur | subaur | addasr | subasr | addasi | subasi
  | leaso | adraso | cmpaur | tstaur | btp | balso | srhlt | setssp => exact .next rfl
  | shlur | rolur | shrur | rorur | shlui | rolui | shrui | rorui => exact alikeButLink_shiftZC _ _ _
  | shrsr | shrsi => exact alikeButLink_shiftZNC _ _
  | luiui => exact alikeButLink_luiui _ _
  | movui | addui | subui | andui | orui | xorui | cmpui | swi => exact .needUimm (.next rfl)
  | mccur | mccsi | jccur | bccsr | bccso => exact .whenCond (.next rfl) (.next rfl)
  | jccui => exact .needUimm (.whenCond (.next rfl) (.next rfl))
  | ldur b | ldso b => exact .andThen (z := memRead _ s) fun _ => .next rfl
  | popur d b => exact .andThen (z := memRead _ (s.setAr b _)) fun _ => .next rfl
  | ldaso => exact .andThen (z := memReadWide _ s) fun _ => .next rfl
  | popaur t b => exact .andThen (z := memReadWide _ (s.setAr b _)) fun _ => .next rfl
  | stur | stsi | stso => exact alikeButLink_store _ _
  | stui => exact .needUimm (alikeButLink_store _ _)
  | pushur t => exact alikeButLink_store (s := s.setAr t _) _ _
  | staso => exact alikeButLink_storeWide _ _
  | pushaur t => exact alikeButLink_storeWide (s := s.setAr t _) _ _
  | csrrd d n =>
    change AlikeButLink (moveZ d (csrRead n s) (csrDraw n (s.relink x y))) _
    rw [csrDraw_relink]
    exact .next rfl
  | csrwr d n =>
    change AlikeButLink (complete (csrWrite n (s.getDr d) (s.relink x y))) _
    rw [csrWrite_relink]
    exact .next rfl
  | ret => exact absurd rfl hr
  | jsrur | jsrui | bsrsr | bsrso => cases hc
  | srmovur | srmovaur | srjccso | sraddsi | srsubsi | srstso | srldso => cases hu

/-- Settles O59: the two runs are alike operation by operation. -/
theorem linkAndStackPointerStayHidden : Obligations.LinkAndStackPointerStayHidden :=
  fun i s x y hu hc hr => exec_relink_alike i s x y hu hc hr

end Sys2Proof.Machine
end

section
/-!
The step and reset (O1, O4, O5).
-/

namespace Sys2Proof.Machine

/-- A running state whose fetch gives a word that decodes runs the instruction. -/
theorem step_of_fetch_of_decode {s : State} {w : Word} {i : Instr} (hh : s.halted = false) (hf : fetch s = .next w)
    (hd : decode s.params w = .ok i) : step s = exec i s := by
  simp [step, hh, hf, hd]

/-- Settles O1: the conditions on the cell at PC are those of a fetch that gives its word. -/
theorem stepRunsTheDecodedInstruction : Obligations.StepRunsTheDecodedInstruction :=
  fun _ _ _ hh hadmit hcell hcoherent hd =>
    step_of_fetch_of_decode hh (fetch_eq_next.2 ⟨hadmit, hcell, hcoherent⟩) hd

/-- Settles O4: `State.resetWith`, field by field. -/
theorem resetGivesTheStatedValues : Obligations.ResetGivesTheStatedValues :=
  fun p => ⟨rfl, rfl, fun x => by simp [State.resetWith, noneLoaded], fun _ => readCell_nil _⟩

/-- The default codes of the special registers differ, and code 14 holds for all flags (R22, R42). -/
theorem paramsWf_defaultParams : paramsWf defaultParams = true := by decide

/-- Settles O5: no cell holds a value or is stored to, so only the parameters are left to check. -/
theorem resetMeetsTheInvariant : Obligations.ResetMeetsTheInvariant := paramsWf_defaultParams

end Sys2Proof.Machine
end

section
/-!
The instructions outside R57's list do not look at memory: with another memory and other marks each shared operation
answers alike and keeps both.
-/

namespace Sys2Proof.Machine

/-- The state with another memory and other marks. -/
def State.withMemory (s : State) (m : Memory) (l : List Nat) : State := { s with mem := m, stored := l }

/-- The answer `a` is the answer `b` with another memory and other marks in its next state. -/
def CarriesMemory (m : Memory) (l : List Nat) (a b : Run State) : Prop := a = onNext (fun t => t.withMemory m l) b

section
variable {s : State} {m : Memory} {l : List Nat} {a b a' b' : Run State}

theorem CarriesMemory.next {u v : State} (h : u = v.withMemory m l) : CarriesMemory m l (.next u) (.next v) :=
  congrArg Host.Outcome.next h

theorem CarriesMemory.needUimm {bs : List (Fin 3)} (h : CarriesMemory m l a b) :
    CarriesMemory m l (needUimm bs (s.withMemory m l) a) (needUimm bs s b) := by
  change CarriesMemory m l (Machine.needUimm bs s a) (Machine.needUimm bs s b)
  unfold Machine.needUimm
  split
  · exact h
  · rfl

theorem CarriesMemory.whenCond {cc : BitVec 4} (h : CarriesMemory m l a b) (h' : CarriesMemory m l a' b') :
    CarriesMemory m l (whenCond cc (s.withMemory m l) a a') (whenCond cc s b b') := by
  change CarriesMemory m l (Machine.whenCond cc s a a') (Machine.whenCond cc s b b')
  unfold Machine.whenCond
  split
  · exact h
  · exact h'
  · rfl

theorem CarriesMemory.withSr {i : Instr} {code : BitVec 2} {f g : SpecialReg → Run State}
    (h : ∀ r, CarriesMemory m l (f r) (g r)) :
    CarriesMemory m l (withSr i code (s.withMemory m l) f) (withSr i code s g) := by
  change CarriesMemory m l (Machine.withSr i code s f) (Machine.withSr i code s g)
  unfold Machine.withSr
  split
  · exact h _
  · rfl

theorem carriesMemory_completeSr (r : SpecialReg) (v : Addr) :
    CarriesMemory m l (completeSr r v (s.withMemory m l)) (completeSr r v s) := by
  cases r with
  | pc | lr | ssp => exact .next rfl

theorem carriesMemory_shiftZC (op : Word → Nat → Shifted) (t : BitVec 4) (n : Nat) :
    CarriesMemory m l (shiftZC op t n (s.withMemory m l)) (shiftZC op t n s) := by
  unfold shiftZC
  split <;> exact .next rfl

theorem carriesMemory_shiftZNC (t : BitVec 4) (n : Nat) :
    CarriesMemory m l (shiftZNC t n (s.withMemory m l)) (shiftZNC t n s) := by
  unfold shiftZNC
  split <;> exact .next rfl

theorem carriesMemory_luiui (x : BitVec 2) (imm : BitVec 12) :
    CarriesMemory m l (execLuiui x imm (s.withMemory m l)) (execLuiui x imm s) := by
  unfold execLuiui
  split
  · exact .next rfl
  · rfl

theorem csrDraw_withMemory (n : BitVec 8) : csrDraw n (s.withMemory m l) = (csrDraw n s).withMemory m l := by
  change (if csrIsHooked s.params n then _ else _) = _
  unfold csrDraw
  split <;> rfl

theorem csrWrite_withMemory (n : BitVec 8) (v : Word) :
    csrWrite n v (s.withMemory m l) = (csrWrite n v s).withMemory m l := by
  change (if csrIsHooked s.params n then _ else _) = _
  unfold csrWrite
  split <;> rfl

end

/-- The instructions outside R57's list, by the shared operation they are made of: none looks at memory. -/
theorem exec_carriesMemory (i : Instr) (s : State) (m : Memory) (l : List Nat) (h : accessesMemory i = false) :
    CarriesMemory m l (exec i (s.withMemory m l)) (exec i s) := by
  cases i with
  | nop | movur | addur | subur | notur | andur | orur | xorur | cmpur | tstur | addsr | subsr | negsr | cmpsr
  | tstsr | movsi | addsi | subsi | cmpsi | movaur | movdur | addaur | subaur | addasr | subasr | addasi | subasi
  | leaso | adraso | cmpaur | tstaur | btp | balso | srhlt | setssp => exact .next rfl
  | shlur | rolur | shrur | rorur | shlui | rolui | shrui | rorui => exact carriesMemory_shiftZC _ _ _
  | shrsr | shrsi => exact carriesMemory_shiftZNC _ _
  | luiui => exact carriesMemory_luiui _ _
  | movui | addui | subui | andui | orui | xorui | cmpui | swi => exact .needUimm (.next rfl)
  | mccur | mccsi | jccur | bccsr | bccso => exact .whenCond (.next rfl) (.next rfl)
  | jccui => exact .needUimm (.whenCond (.next rfl) (.next rfl))
  | csrrd d n =>
    change CarriesMemory m l (moveZ d (csrRead n s) (csrDraw n (s.withMemory m l))) _
    rw [csrDraw_withMemory]
    exact .next rfl
  | csrwr d n =>
    change CarriesMemory m l (complete (csrWrite n (s.getDr d) (s.withMemory m l))) _
    rw [csrWrite_withMemory]
    exact .next rfl
  | srmovur => exact .withSr fun _ => .withSr fun _ => carriesMemory_completeSr _ _
  | srmovaur | sraddsi | srsubsi => exact .withSr fun _ => carriesMemory_completeSr _ _
  | srjccso => exact .withSr fun _ => .whenCond (.next rfl) (.next rfl)
  | ldur | stur | stui | stsi | ldso | stso | ldaso | staso | pushur | pushaur | popur | popaur | jsrur | jsrui | bsrsr
  | bsrso | ret | srstso | srldso => cases h

end Sys2Proof.Machine
end

section
/-!
What an instruction does to memory and its marks: it stores to its stored cells, one after another, and does nothing
else. From that, which cells are left alone (O58), what a store leaves behind for a fetch (O8), and the invariant (O6).
-/

namespace Sys2Proof.Machine

/-! ## Stores to a list of cells -/

/-- Memory and the marks of the cells stored to. -/
def State.memory (s : State) : Memory × List Nat := (s.mem, s.stored)

/-- Memory and marks become others by one store to each listed cell, in this order (R52, R56). -/
inductive Stores : List Addr → Memory × List Nat → Memory × List Nat → Prop where
  | nil (c : Memory × List Nat) : Stores [] c c
  | cons {a : Addr} {as : List Addr} {m : Memory} {l : List Nat} {d : Memory × List Nat} (v : Word)
      (h : Stores as (writeCell m a.toNat v, addAddress l a.toNat) d) : Stores (a :: as) (m, l) d

section
variable {as : List Addr} {c d : Memory × List Nat} {n : Nat}

theorem Stores.eq_of_nil (h : Stores [] c d) : d = c := by
  cases h
  rfl

theorem isSome_readCell_writeCell {m : Memory} {k : Nat} (v : Word) (h : n = k ∨ (readCell m n).isSome = true) :
    (readCell (writeCell m k v) n).isSome = true := by
  by_cases e : n = k
  · simp [e]
  · rw [readCell_writeCell_ne m v e]
    exact h.resolve_left e

/-- Stores take no value away. -/
theorem Stores.isSome_mono (h : Stores as c d) (hn : (readCell c.1 n).isSome = true) :
    (readCell d.1 n).isSome = true := by
  induction h with
  | nil => exact hn
  | cons v _ ih => exact ih (isSome_readCell_writeCell v (.inr hn))

/-- Stores take no mark back. -/
theorem Stores.mark_mono (h : Stores as c d) (hn : n ∈ c.2) : n ∈ d.2 := by
  induction h with
  | nil => exact hn
  | cons v _ ih => exact ih (mem_addAddress.2 (.inr hn))

/-- A cell stored to holds a value and is marked, whatever is stored after it. -/
theorem Stores.of_mem {a : Addr} (h : Stores as c d) (ha : a ∈ as) :
    (readCell d.1 a.toNat).isSome = true ∧ a.toNat ∈ d.2 := by
  induction h with
  | nil => cases ha
  | cons v h ih =>
    obtain rfl | ha := List.mem_cons.1 ha
    · exact ⟨h.isSome_mono (isSome_readCell_writeCell v (.inl rfl)), h.mark_mono (mem_addAddress.2 (.inl rfl))⟩
    · exact ih ha

end

/-! ## The shared stores -/

section
variable {a v : Addr} {s t : State}

theorem stores_memWrite {w : Word} (h : memWrite a w s = .next t) : Stores [a] s.memory t.memory := by
  obtain ⟨-, rfl⟩ := memWrite_eq_next.1 h
  exact .cons w (.nil _)

theorem stores_memWriteWide (h : memWriteWide a v s = .next t) : Stores [a, a + 1] s.memory t.memory := by
  obtain ⟨-, -, rfl⟩ := memWriteWide_eq_next.1 h
  exact .cons _ (.cons _ (.nil _))

theorem stores_link (h : link s = .next t) : Stores [s.ssp - 2, s.ssp - 2 + 1] s.memory t.memory := by
  obtain ⟨u, hu, rfl⟩ := link_eq_next.1 h
  exact stores_memWriteWide (s := s.setSr .ssp (sub48 s.ssp 2)) (t := u) hu

theorem completeAt_memory {u : State} (h : completeAt a u = .next t) : t.memory = u.memory := by
  rw [completeAt_eq_next.1 h]
  rfl

theorem complete_memory {u : State} (h : complete u = .next t) : t.memory = u.memory := completeAt_memory h

theorem completeSr_memory {r : SpecialReg} {u : State} (h : completeSr r v u = .next t) : t.memory = u.memory := by
  obtain ⟨-, rfl⟩ | ⟨-, rfl⟩ | ⟨-, rfl⟩ := completeSr_eq_next.1 h <;> rfl

/-- A one-cell store as the end of an instruction. -/
theorem stores_memWrite_complete {w : Word} (h : andThen (memWrite a w s) complete = .next t) :
    Stores [a] s.memory t.memory := by
  obtain ⟨u, hu, ht⟩ := andThen_eq_next.1 h
  exact complete_memory ht ▸ stores_memWrite hu

/-- A two-cell store as the end of an instruction. -/
theorem stores_memWriteWide_complete (h : andThen (memWriteWide a v s) complete = .next t) :
    Stores [a, a + 1] s.memory t.memory := by
  obtain ⟨u, hu, ht⟩ := andThen_eq_next.1 h
  exact complete_memory ht ▸ stores_memWriteWide hu

/-- A call: the link sequence and a jump. -/
theorem stores_link_completeAt {target : State → Addr}
    (h : andThen (link s) (fun u => completeAt (target u) u) = .next t) :
    Stores [s.ssp - 2, s.ssp - 2 + 1] s.memory t.memory := by
  obtain ⟨u, hu, ht⟩ := andThen_eq_next.1 h
  exact completeAt_memory ht ▸ stores_link hu

/-- A load: whatever is read, memory is kept. -/
theorem stores_load {α : Type} {x : Run α} {f : α → Run State} (h : andThen x f = .next t)
    (hf : ∀ r, f r = .next t → t.memory = s.memory) : Stores [] s.memory t.memory := by
  obtain ⟨r, -, ht⟩ := andThen_eq_next.1 h
  exact hf r ht ▸ .nil _

end

/-! ## Every instruction -/

theorem exec_memory_of_not_accessesMemory {i : Instr} {s t : State} (hi : accessesMemory i = false)
    (h : exec i s = .next t) : t.memory = s.memory := by
  have same : exec i s = onNext (fun u => u.withMemory s.mem s.stored) (exec i s) :=
    exec_carriesMemory i s s.mem s.stored hi
  rw [h] at same
  injection same with same
  rw [same]
  rfl

/-- Everything an instruction can do to memory: the stores of R57, and for the others nothing. -/
theorem exec_stores {i : Instr} {s t : State} (h : exec i s = .next t) :
    Stores (storedCells i s) s.memory t.memory := by
  cases hi : accessesMemory i with
  | false =>
    rw [storedCells, dataAccess_of_not_accessesMemory s hi, exec_memory_of_not_accessesMemory hi h]
    exact .nil _
  | true =>
    cases i with
    | ldur | ldso | ldaso | popur | popaur => exact stores_load h fun _ => complete_memory
    | ret => exact stores_load h fun _ => completeAt_memory
    | stur | stsi | stso => exact stores_memWrite_complete h
    | stui => exact stores_memWrite_complete (needUimm_eq_next.1 h).2
    | pushur t u => exact stores_memWrite_complete (s := s.setAr t _) (exec_pushur t u s ▸ h)
    | staso => exact stores_memWriteWide_complete h
    | pushaur t b => exact stores_memWriteWide_complete (s := s.setAr t _) (exec_pushaur t b s ▸ h)
    | jsrur | bsrsr | bsrso => exact stores_link_completeAt h
    | jsrui => exact stores_link_completeAt (needUimm_eq_next.1 h).2
    | srstso t u imm =>
      obtain ⟨r, hr, h⟩ := withSr_eq_next.1 h
      obtain ⟨_, -, h⟩ := withSr_eq_next.1 h
      rw [storedCells, dataAccess_srstso, hr]
      exact stores_memWriteWide_complete h
    | srldso t u imm =>
      obtain ⟨_, -, h⟩ := withSr_eq_next.1 h
      obtain ⟨_, -, h⟩ := withSr_eq_next.1 h
      rw [storedCells_of_not_writesMemory s rfl]
      exact stores_load h fun _ => completeSr_memory
    | _ => cases hi

theorem exec_memory_of_not_writesMemory {i : Instr} {s t : State} (hi : writesMemory i = false)
    (h : exec i s = .next t) : t.mem = s.mem ∧ t.stored = s.stored := by
  have kept : Stores [] s.memory t.memory := storedCells_of_not_writesMemory s hi ▸ exec_stores h
  exact Prod.mk.inj kept.eq_of_nil

/-- Settles O58: an instruction that stores to no cell keeps memory, and one that makes no access never looks at it. -/
theorem otherInstructionsLeaveMemoryAlone : Obligations.OtherInstructionsLeaveMemoryAlone := by
  intro i s m
  refine ⟨fun t hi h => exec_memory_of_not_writesMemory hi h, fun hi => ?_⟩
  have alike : exec i (s.withMemory m s.stored) = onNext (fun t => t.withMemory m s.stored) (exec i s) :=
    exec_carriesMemory i s m s.stored hi
  refine alike.trans (andThen_congr fun t ht => ?_)
  have marks : t.stored = s.stored := (Prod.mk.inj (exec_memory_of_not_accessesMemory hi ht)).2
  exact marks ▸ rfl

/-! ## The fetch of a cell stored to -/

theorem fetch_eq_refused {s : State} {w : Word} (hadmit : memAdmits s.params s.pc .fetch = true)
    (hcell : s.cell s.pc = some w) (hc : s.params.ifetchCoherent = false) (hmark : s.pc.toNat ∈ s.stored) :
    fetch s = .refused (.storedCellFetched s.pc) := by
  rw [State.cell] at hcell
  simp [fetch, hadmit, hcell, hc, hmark]

/-- A marked cell is fetched or refused, as `IFETCH_COHERENT` says (R64). -/
theorem fetchesStoredCell_of_mark {s : State} (hmark : s.pc.toNat ∈ s.stored) : FetchesStoredCell s :=
  fun hadmit _ hcell =>
    ⟨fun hc => fetch_eq_next.2 ⟨hadmit, hcell, .inl hc⟩, fun hc => fetch_eq_refused hadmit hcell hc hmark⟩

/-- Settles O8: the stored cells of each instruction, the fetch of a marked cell, and both for STur. -/
theorem storedCellIsFetchedOrRefused : Obligations.StoredCellIsFetchedOrRefused := by
  simp only [Obligations.StoredCellIsFetchedOrRefused, List.contains_iff_mem]
  refine ⟨fun i s s' h => ?_, fun s => fetchesStoredCell_of_mark, fun t u s s' h hpc hadmit => ?_⟩
  · exact ⟨fun a ha => (exec_stores h).of_mem ha, fun a ha => (exec_stores h).mark_mono ha⟩
  · have hparams : s'.params = s.params := (exec_frame h).params
    obtain ⟨w, hw, hs'⟩ := andThen_eq_next.1 h
    obtain ⟨-, rfl⟩ := memWrite_eq_next.1 hw
    have content : s'.cell s'.pc = some (s.getDr u) := by
      rw [hpc, State.cell, complete_eq_next.1 hs']
      exact readCell_writeCell_self _ _ _
    have marked : s'.pc.toNat ∈ s'.stored := by
      rw [hpc, complete_eq_next.1 hs']
      exact mem_addAddress.2 (.inl rfl)
    exact hparams ▸ fetchesStoredCell_of_mark marked hadmit _ content

/-! ## The invariant -/

/-- The part of the invariant that speaks of memory and marks: both in canonical form, and a marked cell holds a
value. -/
structure CanonicalMemory (c : Memory × List Nat) : Prop where
  cells : Memory.wf c.1 = true
  marks : addressesWfFrom 0 c.2 = true
  marked : ∀ n ∈ c.2, (readCell c.1 n).isSome = true

theorem inv_iff {s : State} : s.inv = true ↔ CanonicalMemory s.memory ∧ paramsWf s.params = true := by
  simp only [State.inv, Bool.and_eq_true, List.all_eq_true]
  constructor
  · rintro ⟨⟨⟨cells, marks⟩, marked⟩, params⟩
    exact ⟨⟨cells, marks, marked⟩, params⟩
  · rintro ⟨⟨cells, marks, marked⟩, params⟩
    exact ⟨⟨⟨cells, marks⟩, marked⟩, params⟩

theorem CanonicalMemory.store {m : Memory} {l : List Nat} (h : CanonicalMemory (m, l)) (a : Addr) (v : Word) :
    CanonicalMemory (writeCell m a.toNat v, addAddress l a.toNat) where
  cells := writeCell_wf a v h.cells
  marks := addAddress_wfFrom h.marks (Nat.zero_le _) a.isLt
  marked n hn := isSome_readCell_writeCell v ((mem_addAddress.1 hn).imp_right (h.marked n))

theorem CanonicalMemory.stores {as : List Addr} {c d : Memory × List Nat} (hc : CanonicalMemory c)
    (h : Stores as c d) : CanonicalMemory d := by
  induction h with
  | nil => exact hc
  | cons v _ ih => exact ih (hc.store _ v)

/-- Every instruction keeps the invariant: it only stores, and keeps the parameters. -/
theorem exec_inv {i : Instr} {s t : State} (hs : s.inv = true) (h : exec i s = .next t) : t.inv = true := by
  obtain ⟨memory, params⟩ := inv_iff.1 hs
  exact inv_iff.2 ⟨memory.stores (exec_stores h), (exec_frame h).params ▸ params⟩

theorem raiseReserved_ne_next (w : Word) (cause : ReservedCause) (t : State) : raiseReserved w cause ≠ .next t := by
  cases cause <;> exact nofun

/-- A step that gives a next state has run the instruction it fetched. -/
theorem exec_of_step_eq_next {s t : State} (h : step s = .next t) :
    ∃ w i, fetch s = .next w ∧ decode s.params w = .ok i ∧ exec i s = .next t := by
  unfold step at h
  split at h
  · cases h
  · obtain ⟨w, hw, h⟩ := andThen_eq_next.1 h
    split at h
    · next i hi => exact ⟨w, i, hw, hi, h⟩
    · next cause _ => exact absurd h (raiseReserved_ne_next w cause t)

/-- Settles O6: a step runs an instruction, and every instruction keeps the invariant. -/
theorem stepKeepsTheInvariant : Obligations.StepKeepsTheInvariant := by
  intro s t hs h
  obtain ⟨_, _, -, -, run⟩ := exec_of_step_eq_next h
  exact exec_inv hs run

end Sys2Proof.Machine
end

section
/-!
The word of an instruction and the words that differ from it in RESERVED bits only decode to it, but for the check of
those bits (R71 to R76): O10, the words of O9 and both values of the parameter in O14.
-/

namespace Sys2Proof

open Laws Machine

/-! ## Bits of a word -/

@[simp] theorem placed_zero (n lo : Nat) : placed 0#n lo = 0#24 := by
  simp [placed]

/-- A field put back in its place is the word with its other bits cleared. -/
theorem placed_field (w : Word) (lo n : Nat) : placed (field w lo n) lo = w &&& placed (BitVec.allOnes n) lo := by
  ext i hi
  by_cases below : i < lo
  · simp [placed, below]
  · by_cases inside : i - lo < n
    · have place : lo + (i - lo) = i := by omega
      simp [placed, field, below, inside, place, BitVec.getLsbD_eq_getElem hi]
    · simp [placed, field, below, inside]

theorem placed_and {n : Nat} (v : BitVec n) (m : Word) (lo : Nat) :
    placed v lo &&& m = placed (v &&& field m lo n) lo := by
  ext i hi
  by_cases below : i < lo
  · simp [placed, below]
  · by_cases inside : i - lo < n
    · have place : lo + (i - lo) = i := by omega
      simp [placed, field, below, inside, place, BitVec.getLsbD_eq_getElem hi]
    · simp [placed, below, BitVec.getLsbD_of_ge v (i - lo) (by omega)]

/-- A field is zero when the word has no bit in its place. -/
theorem field_eq_zero_iff {w : Word} {lo n : Nat} : field w lo n = 0 ↔ w &&& placed (BitVec.allOnes n) lo = 0 := by
  rw [← placed_field]
  constructor
  · intro h
    simp [h]
  · intro h
    ext i hi
    by_cases inWord : lo + i < 24
    · have bit : (placed (field w lo n) lo)[lo + i] = false := by simp [h]
      simpa [placed, hi] using bit
    · simp [field, BitVec.getLsbD_of_ge w (lo + i) (Nat.le_of_not_lt inWord)]

/-- Clearing bits outside a field keeps it. -/
theorem field_and_not {w m : Word} {lo n : Nat} (hm : field m lo n = 0) : field (w &&& ~~~m) lo n = field w lo n := by
  ext k hk
  by_cases inWord : lo + k < 24
  · have clear : m[lo + k] = false := by
      have : (field m lo n)[k] = false := by simp [hm]
      rwa [field, BitVec.getElem_extractLsb', BitVec.getLsbD_eq_getElem inWord] at this
    simp [field, inWord, clear]
  · simp [field, BitVec.getLsbD_of_ge _ (lo + k) (Nat.le_of_not_lt inWord)]

theorem and_not_or_and (x m : Word) : (x &&& ~~~m) ||| (x &&& m) = x := by
  ext i hi
  simp [← Bool.and_or_distrib_left]

/-! ## The check of RESERVED bits, by a mask -/

/-- The bits of the ranges `(hi, lo)`. -/
def rangesMask (ranges : List (Nat × Nat)) : Word :=
  ranges.foldr (fun r m => (BitVec.allOnes (r.1 + 1 - r.2)).setWidth 24 <<< r.2 ||| m) 0

theorem anyBitSet_eq (w : Word) (ranges : List (Nat × Nat)) : anyBitSet w ranges = (w &&& rangesMask ranges != 0) := by
  induction ranges with
  | nil => simp [rangesMask]
  | cons r ranges ih =>
    have head : anyBitSet w (r :: ranges) = (field w r.2 (r.1 + 1 - r.2) != 0 || anyBitSet w ranges) := rfl
    have mask : rangesMask (r :: ranges) = placed (BitVec.allOnes (r.1 + 1 - r.2)) r.2 ||| rangesMask ranges := rfl
    rw [head, ih, mask, BitVec.and_or_distrib_left, Bool.eq_iff_iff]
    simp only [Bool.or_eq_true, bne_iff_ne, ne_eq, field_eq_zero_iff, ← not_and_or]
    exact not_congr BitVec.or_eq_zero_iff.symm

/-- The instruction, unless a bit of the mask is set in the word and RESERVED bits are strict (R76, D17). -/
def checkedByMask (p : Params) (w m : Word) (i : Instr) : Except ReservedCause Instr :=
  if p.reservedBitsStrict && (w &&& m != 0) then .error .reservedBits else .ok i

theorem checked_eq_checkedByMask (p : Params) (w : Word) (ranges : List (Nat × Nat)) (i : Instr) :
    checked p w ranges i = checkedByMask p w (rangesMask ranges) i := by
  rw [checked, anyBitSet_eq, checkedByMask]

/-! ## Words that hold an instruction -/

/-- Outside its RESERVED bits the word is the instruction's word (R73, R76). -/
def HoldsInstr (w : Word) (i : Instr) : Prop := w &&& ~~~reservedMask i = encode i

/-- A field with no RESERVED bit in it is that of the instruction's word. -/
theorem HoldsInstr.field_eq {w : Word} {i : Instr} (h : HoldsInstr w i) {lo n : Nat}
    (hm : field (reservedMask i) lo n = 0) : field w lo n = field (formula i) lo n := by
  rw [← encode_eq_formula, ← h, field_and_not hm]

/-- A word that holds a well-formed instruction decodes to it, but for the check of its RESERVED bits: the fields the
decoder reads are those of the instruction's own word. -/
theorem decode_of_holdsInstr {p : Params} {w : Word} {i : Instr} (h : HoldsInstr w i) (hwf : i.wellFormed p = true)
    (hu : isUop i = true → p.uopClassFetchable = true) : decode p w = checkedByMask p w (reservedMask i) i := by
  have hf := fun lo n => h.field_eq (lo := lo) (n := n)
  cases i with
  | luiui =>
    have bank : bankExists _ = true := hwf
    simp [decode, decodeClass1, hf, formula, reservedMask, checked_eq_checkedByMask, rangesMask, bank]
  | srmovur | srmovaur | srjccso | sraddsi | srsubsi | srstso | srldso =>
    simp only [Instr.wellFormed, Bool.and_eq_true] at hwf
    simp [decode, decodeClassF, hf, formula, reservedMask, checked_eq_checkedByMask, rangesMask, hu rfl, named, hwf]
  | _ =>
    simp [decode, decodeClass0, decodeClass1, decodeClass2, decodeClass3, decodeClass4, decodeClass5, decodeClass6,
      decodeClass7, decodeClass8, decodeClass9, decodeClassA, hf, formula, reservedMask, checked_eq_checkedByMask,
      rangesMask]

/-- The encoder puts zeros in the RESERVED bits (R76). -/
theorem encode_and_reservedMask (i : Instr) : encode i &&& reservedMask i = 0 := by
  rw [encode_eq_formula]
  cases i <;> simp [formula, reservedMask, BitVec.and_or_distrib_right, placed_and]

/-- An instruction's word with any of its RESERVED bits set holds the instruction. -/
theorem holdsInstr_encode_or (i : Instr) (junk : Word) : HoldsInstr (encode i ||| (junk &&& reservedMask i)) i := by
  have own : encode i &&& ~~~reservedMask i = encode i := by
    simpa [encode_and_reservedMask] using and_not_or_and (encode i) (reservedMask i)
  rw [HoldsInstr, BitVec.and_or_distrib_right, own, BitVec.and_assoc]
  simp

theorem encode_or_and_reservedMask (i : Instr) (junk : Word) :
    (encode i ||| (junk &&& reservedMask i)) &&& reservedMask i = junk &&& reservedMask i := by
  rw [BitVec.and_or_distrib_right, encode_and_reservedMask, BitVec.and_assoc, BitVec.and_self]
  exact BitVec.zero_or

section
variable {p : Params} {i : Instr}

theorem decode_encode_or (junk : Word) (hwf : i.wellFormed p = true)
    (hu : isUop i = true → p.uopClassFetchable = true) :
    decode p (encode i ||| (junk &&& reservedMask i)) =
      if p.reservedBitsStrict && (junk &&& reservedMask i != 0) then .error .reservedBits else .ok i := by
  rw [decode_of_holdsInstr (holdsInstr_encode_or i junk) hwf hu, checkedByMask, encode_or_and_reservedMask]

theorem decode_encode (hwf : i.wellFormed p = true) (hu : isUop i = true → p.uopClassFetchable = true) :
    decode p (encode i) = .ok i := by
  simpa using decode_encode_or 0 hwf hu

theorem decode_of_eq_encode {w : Word} (h : encode i = w) (hwf : i.wellFormed p = true) (hu : isUop i = false) :
    decode p w = .ok i :=
  h ▸ decode_encode hwf (by simp [hu])

end

/-- Settles O10: an instruction's own word holds it and has no RESERVED bit set. -/
theorem decodingAnEncodedInstructionGivesItBack : Obligations.DecodingAnEncodedInstructionGivesItBack :=
  fun _ _ => decode_encode

/-- Settles O9: each word is the encoder's word of its instruction, and the last one is of opclass 1111. -/
theorem wordsOfTheSpecDecode : Obligations.WordsOfTheSpecDecode :=
  ⟨decode_of_eq_encode rfl rfl rfl, decode_of_eq_encode rfl rfl rfl, decode_of_eq_encode rfl rfl rfl,
    decode_of_eq_encode rfl rfl rfl, decode_of_eq_encode rfl rfl rfl, decode_of_eq_encode rfl rfl rfl,
    decode_of_eq_encode rfl rfl rfl, decode_of_eq_encode rfl rfl rfl, decode_of_eq_encode rfl rfl rfl,
    decode_of_eq_encode rfl rfl rfl, decode_of_eq_encode rfl rfl rfl, rfl⟩

/-- Settles O14: the RESERVED bits alone decide between the instruction and the cause, and the check of a text at load
decodes with strict RESERVED bits (log entry 7). -/
theorem reservedBitsDecideByTheParameter : Obligations.ReservedBitsDecideByTheParameter := by
  intro p i junk hwf hu
  refine ⟨fun hp => ?_, fun hp hj => ?_, fun hj base before after hbefore => ?_⟩
  · simp [decode_encode_or junk hwf hu, hp]
  · rw [decode_encode_or junk hwf hu, hp, bne_iff_ne.2 hj]
    rfl
  · have reserved : decodeText p (encode i ||| (junk &&& reservedMask i)) = .error .reservedBits := by
      rw [decodeText, decode_encode_or junk (p := { p with reservedBitsStrict := true }) hwf hu, bne_iff_ne.2 hj]
      rfl
    exact refusedAtLoad_of_ground hbefore (ground_of_error reserved)

end Sys2Proof
end

section
/-!
What a word that decodes looks like: it holds its instruction, and the instruction's checks passed. From that, the
round trip from words (O11), and the opclass and subop as the selectors of the instruction (O12).
-/

namespace Sys2Proof

open Laws Machine

/-! ## Opclass and subop -/

theorem field_opcode (w : Word) : field w 16 8 = field w 20 4 ++ field w 16 4 :=
  (BitVec.extractLsb'_append_extractLsb'_eq_extractLsb' (x := w) (by rfl : 20 = 16 + 4)).symm

theorem and_opcode (w : Word) : w &&& 0xFF0000 = placed (field w 16 8) 16 := by
  rw [placed_field]
  rfl

theorem and_opcode_eq_iff {a b : Word} : a &&& 0xFF0000 = b &&& 0xFF0000 ↔ field a 16 8 = field b 16 8 := by
  rw [and_opcode, and_opcode]
  constructor
  · intro h
    rw [← field_placed_self (field a 16 8) (lo := 16) (by decide), h, field_placed_self _ (by decide)]
  · intro h
    rw [h]

/-- A word is its opclass and subop above its lower 16 bits. -/
theorem eq_of_opcode_of_operands {a b : Word} (ho : field a 16 8 = field b 16 8) (hr : a &&& 0xFFFF = b &&& 0xFFFF) :
    a = b := by
  have split (x : Word) : x = x &&& 0xFF0000 ||| x &&& 0xFFFF := by
    rw [← BitVec.and_or_distrib_left]
    exact BitVec.and_allOnes.symm
  rw [split a, split b, and_opcode_eq_iff.2 ho, hr]

theorem field_reservedMask_opcode (i : Instr) : field (reservedMask i) 16 8 = 0 := by
  cases i <;> simp [reservedMask]

theorem HoldsInstr.opcode {w : Word} {i : Instr} (h : HoldsInstr w i) : field w 16 8 = field (formula i) 16 8 :=
  h.field_eq (field_reservedMask_opcode i)

theorem holdsInstr_of_opcode_of_operands {w : Word} {i : Instr} (ho : field w 16 8 = field (formula i) 16 8)
    (hr : w &&& ~~~reservedMask i &&& 0xFFFF = formula i &&& 0xFFFF) : HoldsInstr w i := by
  rw [HoldsInstr, encode_eq_formula]
  exact eq_of_opcode_of_operands ((field_and_not (field_reservedMask_opcode i)).trans ho) hr

/-! ## The arms of the decoder -/

@[simp] theorem halfBit_halfOf (b : BitVec 1) : halfBit (halfOf b) = b := by
  revert b
  decide

theorem ite_error_eq_ok {c : Prop} [Decidable c] {x : Except ReservedCause Instr} {e : ReservedCause} {i : Instr} :
    (if c then x else .error e) = .ok i ↔ c ∧ x = .ok i := by
  split <;> simp [*]

/-- All that is known of a word which decodes to the instruction. -/
structure Reads (p : Params) (w : Word) (i : Instr) : Prop where
  holds : HoldsInstr w i
  reserved : p.reservedBitsStrict = true → w &&& reservedMask i = 0
  wellFormed : i.wellFormed p = true
  fetchable : isUop i = true → p.uopClassFetchable = true

section
variable {p : Params} {w : Word} {i j : Instr}

theorem reads_of_checked {ranges : List (Nat × Nat)} {c s : BitVec 4} (hc : field w 20 4 = c) (hs : field w 16 4 = s)
    (h : checked p w ranges j = .ok i) (hm : rangesMask ranges = reservedMask j) (hwf : j.wellFormed p = true)
    (hu : isUop j = true → p.uopClassFetchable = true) (ho : c ++ s = field (formula j) 16 8)
    (hr : w &&& ~~~reservedMask j &&& 0xFFFF = formula j &&& 0xFFFF) : Reads p w i := by
  obtain ⟨hres, rfl⟩ := checked_eq_ok.1 h
  rw [anyBitSet_eq, hm] at hres
  refine ⟨holdsInstr_of_opcode_of_operands ?_ hr, fun strict => by simpa using hres strict, hwf, hu⟩
  rw [field_opcode, hc, hs, ho]

theorem reads_of_decodeClass1 (hc : field w 20 4 = 1) (h : decodeClass1 p w = .ok i) : Reads p w i := by
  unfold decodeClass1 at h
  split at h
  case h_1 hs =>
    obtain ⟨bank, h⟩ := ite_error_eq_ok.1 h
    refine reads_of_checked hc hs h rfl bank nofun (by simp [formula]) ?_
    simp only [reservedMask, formula, placed_field]
    simp [placed, BitVec.and_assoc, BitVec.and_or_distrib_right, ← BitVec.and_or_distrib_left]
  case h_13 => cases h
  all_goals
    next hs =>
    refine reads_of_checked hc hs h rfl rfl nofun (by simp [formula]) ?_
    simp only [reservedMask, formula, placed_field]
    simp [placed, BitVec.and_assoc, BitVec.and_or_distrib_right, ← BitVec.and_or_distrib_left]

theorem reads_of_decodeClassF (hc : field w 20 4 = 15) (fetchable : p.uopClassFetchable = true)
    (h : decodeClassF p w = .ok i) : Reads p w i := by
  unfold decodeClassF at h
  split at h
  case h_8 => cases h
  all_goals
    next hs =>
    obtain ⟨special, h⟩ := named_eq_ok.1 h
    refine reads_of_checked hc hs h rfl (by simpa [Instr.wellFormed] using special) (fun _ => fetchable)
      (by simp [formula]) ?_
    simp only [reservedMask, formula, placed_field]
    simp [placed, BitVec.and_assoc, BitVec.and_or_distrib_right, ← BitVec.and_or_distrib_left]

/-- Every arm of the decoder: the opclass and subop it matches are its instruction's, and it reads each field where the
encoder puts it. -/
theorem reads_of_decode (h : decode p w = .ok i) : Reads p w i := by
  unfold decode at h
  split at h
  case h_2 hc => exact reads_of_decodeClass1 hc h
  case h_12 hc =>
    obtain ⟨fetchable, h⟩ := ite_error_eq_ok.1 h
    exact reads_of_decodeClassF hc fetchable h
  case h_13 => cases h
  all_goals
    next hc =>
    simp only [decodeClass0, decodeClass2, decodeClass3, decodeClass4, decodeClass5, decodeClass6, decodeClass7,
      decodeClass8, decodeClass9, decodeClassA] at h
    split at h <;> simp only [checked_eq_ok, reduceCtorEq] at h
    all_goals
      next hs =>
      refine reads_of_checked hc hs (checked_eq_ok.2 h) rfl rfl nofun (by simp [formula]) ?_
      simp only [reservedMask, formula, placed_field, halfBit_halfOf]
      simp [placed, BitVec.and_assoc, BitVec.and_or_distrib_right, ← BitVec.and_or_distrib_left]

theorem encode_of_decode (hp : p.reservedBitsStrict = true) (h : decode p w = .ok i) : encode i = w := by
  obtain ⟨holds, reserved, -, -⟩ := reads_of_decode h
  have whole := and_not_or_and w (reservedMask i)
  rw [holds, reserved hp] at whole
  simpa using whole

end

/-- Settles O11: a word that decodes holds its instruction, and its RESERVED bits are zero. -/
theorem encodingADecodedWordGivesItBack : Obligations.EncodingADecodedWordGivesItBack :=
  fun _ _ _ hp h => ⟨encode_of_decode hp h, (reads_of_decode h).wellFormed⟩

/-! ## The opcodes -/

/-- The opclass and subop of each instruction, in the order of the constructors (R77). -/
def opcodes : List (BitVec 8) :=
  [0x00, 0x01, 0x02, 0x03, 0x04, 0x05, 0x06, 0x07, 0x08, 0x09, 0x0A, 0x0B, 0x0C, 0x0D, 0x0E,
   0x10, 0x11, 0x13, 0x14, 0x16, 0x17, 0x18, 0x19, 0x1A, 0x1B, 0x1C, 0x1D,
   0x23, 0x24, 0x25, 0x2B, 0x2D, 0x2E, 0x30, 0x31, 0x33, 0x34, 0x3B, 0x3D,
   0x40, 0x41, 0x42, 0x43, 0x50, 0x51, 0x52, 0x53,
   0x61, 0x62, 0x63, 0x64, 0x65, 0x66, 0x67, 0x68, 0x69, 0x6A, 0x6D, 0x6E,
   0x70, 0x71, 0x72, 0x73, 0x74, 0x75, 0x76, 0x77, 0x78, 0x79, 0x7A,
   0x80, 0x81, 0x82, 0x83, 0x90, 0x91, 0xA0, 0xA1, 0xA2,
   0xF0, 0xF1, 0xF2, 0xF3, 0xF4, 0xF5, 0xF6]

theorem opcodes_nodup : opcodes.Nodup := by decide

theorem opcodes_ctorIdx (i : Instr) : opcodes[i.ctorIdx]? = some (field (formula i) 16 8) := by
  cases i <;> simp [formula] <;> rfl

/-- No two instructions share their opclass and subop. -/
theorem opcode_eq_iff {i j : Instr} : field (formula i) 16 8 = field (formula j) 16 8 ↔ i.ctorIdx = j.ctorIdx := by
  have listed : i.ctorIdx < opcodes.length := (List.getElem?_eq_some_iff.1 (opcodes_ctorIdx i)).1
  rw [← Option.some_inj, ← opcodes_ctorIdx, ← opcodes_ctorIdx]
  exact List.getElem?_inj listed opcodes_nodup

/-- Settles O12: a word that decodes has its instruction's opclass and subop, and these tell the constructors apart. -/
theorem opclassAndSubopSelectTheInstruction : Obligations.OpclassAndSubopSelectTheInstruction := by
  intro p w i h
  have own := (reads_of_decode h).holds.opcode
  refine ⟨?_, fun w' i' h' => ?_⟩
  · rw [and_opcode_eq_iff, own, encode_eq_formula]
  · rw [and_opcode_eq_iff, own, (reads_of_decode h').holds.opcode, opcode_eq_iff]

end Sys2Proof
end

section
/-!
The words that select no instruction (R77 to R79): what the decoder says of them, and what a step and the check of a
program text at load make of that (O13).
-/

namespace Sys2Proof

open Machine

/-- The subops without an entry, by opclass (R77). -/
def freeSubops : Nat → List Nat
  | 0 => [15]
  | 1 => [2, 5, 14, 15]
  | 2 => [0, 1, 2, 6, 7, 8, 9, 10, 12, 15]
  | 3 => [2, 5, 6, 7, 8, 9, 10, 12, 14, 15]
  | 4 | 5 | 8 => [4, 5, 6, 7, 8, 9, 10, 11, 12, 13, 14, 15]
  | 6 => [0, 11, 12, 15]
  | 7 => [11, 12, 13, 14, 15]
  | 9 => [2, 3, 4, 5, 6, 7, 8, 9, 10, 11, 12, 13, 14, 15]
  | 10 => [3, 4, 5, 6, 7, 8, 9, 10, 11, 12, 13, 14, 15]
  | 15 => [7, 8, 9, 10, 11, 12, 13, 14, 15]
  | _ => []

theorem toNat_field (w : Word) (lo n : Nat) : (field w lo n).toNat = w.toNat / 2 ^ lo % 2 ^ n := by
  rw [field, BitVec.extractLsb'_toNat, Nat.shiftRight_eq_div_pow]

section
variable {p : Params} {w : Word}

theorem decode_of_emptyOpclass (h : (field w 20 4).toNat ∈ [11, 12, 13, 14]) :
    decode p w = .error .emptyOpclass := by
  unfold decode
  split <;> simp [*] at h ⊢

theorem decode_of_not_fetchable (h : (field w 20 4).toNat = 15) (hu : p.uopClassFetchable = false) :
    decode p w = .error .uopNotFetchable := by
  have hc : field w 20 4 = 15 := BitVec.eq_of_toNat_eq h
  simp [decode, hc, hu]

/-- An opclass with a free subop has entries: the empty ones have none. -/
theorem opclass_of_mem_freeSubops {c : BitVec 4} {n : Nat} (h : n ∈ freeSubops c.toNat) :
    c ∈ ([0, 1, 2, 3, 4, 5, 6, 7, 8, 9, 10, 15] : List (BitVec 4)) := by
  have nonempty : ∀ c : BitVec 4, freeSubops c.toNat ≠ [] →
      c ∈ ([0, 1, 2, 3, 4, 5, 6, 7, 8, 9, 10, 15] : List (BitVec 4)) := by decide
  exact nonempty c (List.ne_nil_of_mem h)

/-- No entry of the decoder has a free subop. -/
theorem decode_of_free (hu : (field w 20 4).toNat = 15 → p.uopClassFetchable = true)
    (h : (field w 16 4).toNat ∈ freeSubops (field w 20 4).toNat) : decode p w = .error .unassignedSubop := by
  unfold decode
  split
  case h_12 hc =>
    rw [if_pos (hu (by simp [hc]))]
    unfold decodeClassF
    split <;> simp [*, freeSubops] at h ⊢
  case h_13 =>
    have := opclass_of_mem_freeSubops h
    simp_all
  all_goals
    simp only [decodeClass0, decodeClass1, decodeClass2, decodeClass3, decodeClass4, decodeClass5, decodeClass6,
      decodeClass7, decodeClass8, decodeClass9, decodeClassA]
    split <;> simp [*, freeSubops] at h ⊢

end

end Sys2Proof

namespace Sys2Proof.Machine

/-! ## One more word in a text -/

/-- A last word that is no instruction is no consumer either. -/
theorem leadsToConsumer_concat_error {x : TextWord} {cause : ReservedCause} (hx : x.decoded = .error cause)
    (words : List TextWord) : leadsToConsumer (words ++ [x]) = leadsToConsumer words := by
  induction words with
  | nil => simp [leadsToConsumer, hx]
  | cons y words ih => simp only [List.cons_append, leadsToConsumer, ih]

theorem insideRuns_concat_error {x : TextWord} {cause : ReservedCause} (hx : x.decoded = .error cause)
    (words : List TextWord) : insideRuns (words ++ [x]) = insideRuns words := by
  induction words with
  | nil => simp [insideRuns, leadsToConsumer, hx]
  | cons y words ih =>
    have leads := leadsToConsumer_concat_error hx (y :: words)
    rw [List.cons_append] at leads ⊢
    simp only [insideRuns, leads, ih]

/-- A word that is no instruction, for a cause that refuses no text, leaves an accepted text accepted. -/
theorem refusedAtLoad_concat_error {p : Params} {base : Addr} {before : List Word} {w : Word} {cause : ReservedCause}
    (hd : decodeText p w = .error cause) (hcause : refusesText cause = false)
    (hbefore : refusedAtLoad p base before = none) : refusedAtLoad p base (before ++ [w]) = none := by
  obtain ⟨grounds, entries⟩ := refusedAtLoad_eq_none.1 hbefore
  rw [refusedAtLoad_eq_none, textWords_append, textWords_cons, textWords_nil, insideRuns_concat_error (hx := hd),
    List.filterMap_append]
  refine ⟨fun x hx => ?_, ?_⟩
  · obtain hx | hx := List.mem_append.1 hx
    · exact grounds x hx
    · rw [List.mem_singleton.1 hx, ground_of_error hd, hcause]
      rfl
  · have noTarget (a : Addr) (run : LuiRun) : (textWordAt p a run w).target p = none := by
      simp only [TextWord.target, textWordAt_decoded, hd]
    simpa [noTarget] using entries

/-- A word that is no instruction, for a cause that refuses a text. -/
theorem refusedAtLoad_of_error {p : Params} {base : Addr} {before after : List Word} {w : Word} {cause : ReservedCause}
    (hd : decodeText p w = .error cause) (hcause : refusesText cause = true)
    (hbefore : refusedAtLoad p base before = none) :
    refusedAtLoad p base (before ++ w :: after) = some (.reservedEncoding w cause) := by
  refine refusedAtLoad_of_ground hbefore ?_
  rw [ground_of_error hd, if_pos hcause]

/-- Settles O13: the cause the decoder names for each kind of word, and what the step and the check at load make of
that cause. -/
theorem unassignedOpcodesAreReserved : Obligations.UnassignedOpcodesAreReserved := by
  intro p w opclass subop free fetched refusesAText
  have hclass : (field w 20 4).toNat = opclass := toNat_field w 20 4
  have hsub : (field w 16 4).toNat = subop := toNat_field w 16 4
  have fetchedError {cause : ReservedCause} (hd : decode p w = .error cause) : fetched (raiseReserved w cause) :=
    fun s hp hh hf => step_of_decode_error hh hf (hp ▸ hd)
  refine ⟨fun hempty => ?_, fun hF hu => ?_, fun hu hfree => ?_⟩
  · have hd (q : Params) : decode q w = .error .emptyOpclass := decode_of_emptyOpclass (hclass ▸ hempty)
    refine ⟨hd p, fetchedError (hd p), fun base text cause hr => ?_,
      fun base before => refusedAtLoad_concat_error (hd _) rfl⟩
    obtain ⟨hcause, hrefuses⟩ := refusesText_of_refusedAtLoad hr
    cases (hd _).symm.trans hcause
    cases hrefuses
  · have hd (q : Params) (hq : q.uopClassFetchable = p.uopClassFetchable) : decode q w = .error .uopNotFetchable :=
      decode_of_not_fetchable (hclass.trans hF) (hq.trans hu)
    exact ⟨hd p rfl, fetchedError (hd p rfl), fun _ _ _ => refusedAtLoad_of_error (hd _ rfl) rfl⟩
  · have listed : (field w 16 4).toNat ∈ freeSubops (field w 20 4).toNat := by
      rw [hclass, hsub]
      exact hfree
    have hd (q : Params) (hq : q.uopClassFetchable = p.uopClassFetchable) : decode q w = .error .unassignedSubop :=
      decode_of_free (fun hF => hq.trans (hu (hclass.symm.trans hF))) listed
    exact ⟨hd p rfl, fetchedError (hd p rfl), fun _ _ _ => refusedAtLoad_of_error (hd _ rfl) rfl⟩

end Sys2Proof.Machine
end

section
/-!
Immediates (R83): a signed immediate stands for its value, and a displacement leads to its target (O52).
-/

namespace Sys2Proof.Machine

theorem toInt_of_signedImm {n : Nat} {v : Int} {b : BitVec n} (hn : 0 < n) (h : signedImm n v = some b) :
    b.toInt = v := by
  obtain ⟨⟨lower, upper⟩, hb⟩ := Option.ite_none_right_eq_some.1 h
  cases hb
  exact BitVec.toInt_ofInt_eq_self hn lower upper

/-- Settles O52: the range is the test of `signedImm`, and adding the distance back to PC gives the target. -/
theorem immediatesStandForTheirValues : Obligations.ImmediatesStandForTheirValues := by
  intro n v pc target hn
  refine ⟨?_, fun b => toInt_of_signedImm hn, fun b h => ?_⟩
  · simp only [signedImm, Option.isSome_ite, Int.le_sub_one_iff]
  · have distance : b.toInt = (target - pc).toInt := toInt_of_signedImm hn h
    calc offsetAddr pc b = pc + (target - pc) := by
          rw [offsetAddr, add48, sext48, BitVec.signExtend, distance, BitVec.ofInt_toInt]
      _ = target := by rw [BitVec.add_comm, BitVec.sub_add_cancel]

end Sys2Proof.Machine
end

section
/-!
How an expansion of R82 runs: the states its LUIui leave, one rule for each kind of consumer of `uimm`, and from the two
what the whole expansion does.
-/

namespace Sys2Proof.Machine

/-! ## The state after LUIui -/

/-- The state after LUIui of a bank (R121). -/
def State.afterLui (s : State) (x : Fin 3) (imm : Bank) : State :=
  { s with bank := s.bank.set x imm, loaded := s.loaded.set x true, pc := s.pc + 1 }

/-- The state in which the consumer of a 24-bit immediate runs (R82). -/
def State.afterImm24 (s : State) (k : Word) : State := s.afterLui 0 (k.extractLsb' 12 12)

/-- The state in which the consumer of a 48-bit immediate runs (R82). -/
def State.afterImm48 (s : State) (a : Addr) : State :=
  ((s.afterLui 2 (a.extractLsb' 36 12)).afterLui 1 (a.extractLsb' 24 12)).afterLui 0 (a.extractLsb' 12 12)

section
variable (s : State) (x : Fin 3) (imm : Bank) (k : Word) (a : Addr) (go : Run State)

theorem frame_afterLui : Frame [.bank x] s (s.afterLui x imm) :=
  (frame_setBank s x imm).trans (frame_advance _ _ _)

theorem frame_afterImm24 : Frame [.bank 0] s (s.afterImm24 k) := frame_afterLui s 0 _

theorem frame_afterImm48 : Frame [.bank 2, .bank 1, .bank 0] s (s.afterImm48 a) :=
  ((frame_afterLui s 2 _).trans (frame_afterLui _ 1 _)).trans (frame_afterLui _ 0 _)

theorem pc_afterImm48 : (s.afterImm48 a).pc = s.pc + 3 := by
  change s.pc + 1 + 1 + 1 = s.pc + 3
  rw [BitVec.add_assoc, BitVec.add_assoc]
  rfl

theorem uimm24_afterImm24 : (s.afterImm24 k).uimm24 (k.extractLsb' 0 12) = k := by
  have bank : (s.afterImm24 k).bank[0] = k.extractLsb' 12 12 := by simp [State.afterImm24, State.afterLui]
  rw [State.uimm24, bank]
  exact BitVec.extractLsb'_append_extractLsb' (x := k) (w := 12) (len := 12)

theorem uimm48_afterImm48 : (s.afterImm48 a).uimm48 (a.extractLsb' 0 12) = a := by
  have bank0 : (s.afterImm48 a).bank[0] = a.extractLsb' 12 12 := by simp [State.afterImm48, State.afterLui]
  have bank1 : (s.afterImm48 a).bank[1] = a.extractLsb' 24 12 := by simp [State.afterImm48, State.afterLui]
  have bank2 : (s.afterImm48 a).bank[2] = a.extractLsb' 36 12 := by simp [State.afterImm48, State.afterLui]
  rw [State.uimm48, bank0, bank1, bank2,
    BitVec.extractLsb'_append_extractLsb'_eq_extractLsb' (by rfl : 36 = 24 + 12),
    BitVec.extractLsb'_append_extractLsb'_eq_extractLsb' (by rfl : 24 = 12 + 12)]
  exact BitVec.extractLsb'_append_extractLsb' (x := a) (w := 36) (len := 12)

theorem needUimm_afterImm24 : needUimm [0] (s.afterImm24 k) go = go :=
  if_pos (by simp [State.afterImm24, State.afterLui])

theorem needUimm_afterImm48 : needUimm [0, 1, 2] (s.afterImm48 a) go = go :=
  if_pos (by simp [State.afterImm48, State.afterLui])

end

theorem andThen_next_right {α : Type} (x : Run α) : andThen x .next = x := by
  cases x <;> rfl

theorem runInstrs_splitImm24 (k : Word) (last : BitVec 12 → Instr) (s : State) :
    runInstrs (splitImm24 k last) s = exec (last (k.extractLsb' 0 12)) (s.afterImm24 k) :=
  andThen_next_right _

theorem runInstrs_splitImm48 (a : Addr) (last : BitVec 12 → Instr) (s : State) :
    runInstrs (splitImm48 a last) s = exec (last (a.extractLsb' 0 12)) (s.afterImm48 a) :=
  andThen_next_right _

/-- The consumer of a 24-bit immediate finds bank 0 loaded and reads the whole immediate. -/
theorem consumes_imm24 {k : Word} {s : State} (f : Word → Run State) :
    needUimm [0] (s.afterImm24 k) (f ((s.afterImm24 k).uimm24 (k.extractLsb' 0 12))) = f k := by
  rw [needUimm_afterImm24, uimm24_afterImm24]

/-- The consumer of a 48-bit immediate finds all banks loaded and reads the whole immediate. -/
theorem consumes_imm48 {a : Addr} {s : State} (f : Addr → Run State) :
    needUimm [0, 1, 2] (s.afterImm48 a) (f ((s.afterImm48 a).uimm48 (a.extractLsb' 0 12))) = f a := by
  rw [needUimm_afterImm48, uimm48_afterImm48]

/-! ## One rule per kind of consumer -/

/-- The difference of two words is their difference as numbers (R30). -/
theorem sub_eq_ofInt (x y : Word) : x - y = BitVec.ofInt 24 (x.toNat - y.toNat : Int) := by
  apply BitVec.eq_of_toNat_eq
  rw [BitVec.toNat_sub, BitVec.toNat_ofInt]
  omega

theorem sub_eq_zero_iff_toNat {x y : Word} : x - y = 0 ↔ x.toNat = y.toNat := by
  rw [← BitVec.toNat_inj]
  bv_omega

theorem whenCond_of_not_holds {cc : BitVec 4} {s : State} {yes no : Run State}
    (h : ccHolds s.params cc s.flags = some false) : whenCond cc s yes no = no := by
  simp only [whenCond, h]

section
variable {i : Instr} {s : State} {t : BitVec 4} {k r : Word} {a : Addr}

theorem runs_of_moveZ (h : exec i s = moveZ t r s) : Runs i s (WritesZ t r s) :=
  ⟨_, h, State.getDr_setDr_self .., zeroFlag_iff _, ⟨rfl, rfl⟩, (frame_resultZ s t r).trans (frame_advance _ _ _)⟩

theorem runs_of_addZC (h : exec i s = addZC t k s) :
    Runs i s (WritesZC t (.ofNat 24 ((s.getDr t).toNat + k.toNat)) (2 ^ 24 ≤ (s.getDr t).toNat + k.toNat) s) :=
  ⟨_, h, State.getDr_setDr_self .., zeroFlag_iff _, decide_eq_true_iff, ⟨rfl, rfl⟩,
    (frame_resultZC s t _ _).trans (frame_advance _ _ _)⟩

theorem runs_of_subZC (h : exec i s = subZC t k s) :
    Runs i s (WritesZC t (s.getDr t - k) ((s.getDr t).toNat < k.toNat) s) :=
  ⟨_, h, State.getDr_setDr_self .., zeroFlag_iff _, decide_eq_true_iff, ⟨rfl, rfl⟩,
    (frame_resultZC s t _ _).trans (frame_advance _ _ _)⟩

theorem runs_of_compareZC (h : exec i s = compareZC t k s) :
    Runs i s fun s' => (s'.flags.z = true ↔ s.getDr t - k = 0) ∧ (s'.flags.c = true ↔ (s.getDr t).toNat < k.toNat) ∧
      Advances s s' ∧ Frame [.z, .c] s s' :=
  ⟨_, h, zeroFlag_iff _, decide_eq_true_iff, ⟨rfl, rfl⟩, (frame_flagsZC s _ _).trans (frame_advance _ _ _)⟩

theorem exists_memWrite (k : Word) (hadmit : memAdmits s.params a .write = true) : ∃ u, memWrite a k s = .next u :=
  ⟨_, memWrite_eq_next.2 ⟨hadmit, rfl⟩⟩

theorem cell_of_memWrite {u : State} (h : memWrite a k s = .next u) : u.cell a = some k := by
  obtain ⟨-, rfl⟩ := memWrite_eq_next.1 h
  exact readCell_writeCell_self ..

theorem runs_of_memWrite (h : exec i s = andThen (memWrite a k s) complete)
    (hadmit : memAdmits s.params a .write = true) :
    Runs i s fun s' => s'.cell a = some k ∧ Advances s s' ∧ Frame (storedAt a) s s' := by
  obtain ⟨u, write⟩ := exists_memWrite k hadmit
  have cell : u.cell a = some k := cell_of_memWrite write
  have pc : u.pc = s.pc := by rw [(memWrite_eq_next.1 write).2]
  refine ⟨_, h.trans (congrArg (andThen · complete) write), cell, ⟨congrArg (· + 1) pc, rfl⟩, ?_⟩
  exact ((frame_memWrite write).trans (frame_advance _ _ _)).mono (by simp)

theorem runs_of_completeAt (h : exec i s = completeAt a s) : Runs i s fun s' => Continues a s' ∧ Frame [] s s' :=
  ⟨_, h, ⟨rfl, rfl⟩, frame_advance s _ _⟩

theorem exists_memWriteWide (v : Addr) (hadmit : admitsWide s.params a .write) : ∃ u, memWriteWide a v s = .next u :=
  ⟨_, memWriteWide_eq_next.2 ⟨hadmit.1, hadmit.2, rfl⟩⟩

/-- A two-cell store leaves the value in its two cells (R53). -/
theorem holdsWide_of_memWriteWide {v : Addr} {u : State} (h : memWriteWide a v s = .next u) : u.holdsWide a v := by
  obtain ⟨w, first, second⟩ := andThen_eq_next.1 h
  have params : u.params = s.params := (frame_memWriteWide h).params
  have lower : u.cell a = some (firstCell s.params v) := by
    have apart : a.toNat ≠ (a + 1).toNat := by bv_omega
    obtain ⟨-, rfl⟩ := memWrite_eq_next.1 second
    exact (readCell_writeCell_ne _ _ apart).trans (cell_of_memWrite first)
  have upper : u.cell (a + 1) = some (secondCell s.params v) := cell_of_memWrite second
  simp only [State.holdsWide, params, lower, upper]
  cases hw : s.params.wideLowFirst <;> simp [firstCell, secondCell, halfOfAddr, hw]

/-- A call links and goes on at its target. -/
theorem runs_of_link {target : State → Addr} (h : exec i s = andThen (link s) fun u => completeAt (target u) u)
    (hadmit : admitsWide s.params (s.ssp - 2) .write) (htarget : ∀ u, link s = .next u → target u = a) :
    Runs i s (Links a s) := by
  obtain ⟨u, store⟩ := exists_memWriteWide (s := s.setSr .ssp (s.ssp - 2)) s.lr hadmit
  have linked : link s = .next { u with lr := u.pc } := link_eq_next.2 ⟨u, store, rfl⟩
  have pc : u.pc = s.pc := (memWriteWide_keeps store).1
  have ssp : u.ssp = s.ssp - 2 := (frame_memWriteWide store).ssp (by simp [storedAt])
  have stored : u.holdsWide (s.ssp - 2) s.lr := holdsWide_of_memWriteWide store
  refine ⟨_, h.trans (congrArg (andThen · _) linked), ssp, pc, stored, ⟨htarget _ linked, rfl⟩, ?_⟩
  refine ((frame_link linked).trans (frame_advance _ _ _)).mono fun l hl => ?_
  simp only [storedAt, storedWideAt, List.mem_append, List.mem_cons, List.not_mem_nil] at hl ⊢
  tauto

end

/-! ## Whole expansions -/

section
variable {s : State} {k : Word} {a : Addr} {last : BitVec 12 → Instr} {P post : State → Prop} {changed : List Loc}

/-- An expansion for a 24-bit immediate, from what its consumer does after LUIui. -/
theorem runsAll_splitImm24 (h : Runs (last (k.extractLsb' 0 12)) (s.afterImm24 k) P)
    (hP : ∀ s', P s' → post s' ∧ Advances (s.afterImm24 k) s' ∧ Frame changed (s.afterImm24 k) s') :
    RunsAll (splitImm24 k last) s fun s' => post s' ∧ Continues (s.pc + 2) s' ∧ Frame (.bank 0 :: changed) s s' := by
  obtain ⟨s', hs', hp⟩ := h
  obtain ⟨hpost, ⟨pc, unloaded⟩, frame⟩ := hP s' hp
  refine ⟨s', (runInstrs_splitImm24 k last s).trans hs', hpost, ⟨pc.trans ?_, unloaded⟩,
    (frame_afterImm24 s k).trans frame⟩
  exact BitVec.add_assoc s.pc 1 1

/-- An expansion for a 48-bit immediate, from what its consumer does after LUIui. -/
theorem runsAll_splitImm48 (h : Runs (last (a.extractLsb' 0 12)) (s.afterImm48 a) P) (hP : ∀ s', P s' → post s') :
    RunsAll (splitImm48 a last) s post := by
  obtain ⟨s', hs', hp⟩ := h
  exact ⟨s', (runInstrs_splitImm48 a last s).trans hs', hP s' hp⟩

theorem frame_of_afterImm48 {s' : State} (h : Frame changed (s.afterImm48 a) s') :
    Frame ([.bank 0, .bank 1, .bank 2] ++ changed) s s' := by
  refine ((frame_afterImm48 s a).trans h).mono fun l hl => ?_
  simp only [List.mem_append, List.mem_cons, List.not_mem_nil] at hl ⊢
  tauto

end

end Sys2Proof.Machine
end

section
/-!
The ten expansions of R82 (O53): the check of their words at load, and each of them by the rule of its consumer.
-/

namespace Sys2Proof.Machine

/-! ## The check of an expansion's words at load -/

section
variable {p : Params} {base : Addr} {run : LuiRun} {text : List Word} {luis : List (BitVec 2 × Bank)} {i : Instr}

/-- A word of a text stands at the address of its number, and only before the first there may be no run. -/
theorem addr_of_mem_textWords {x : TextWord} (h : x ∈ textWords p base run text) :
    ∃ k < text.length, x.addr = wordAddr base k ∧ (k = 0 → x.run = run) := by
  induction text generalizing base run with
  | nil => cases h
  | cons w text ih =>
    rw [textWords_cons] at h
    obtain rfl | h := List.mem_cons.1 h
    · exact ⟨0, by simp, by simp [wordAddr], fun _ => rfl⟩
    · obtain ⟨k, hk, haddr, -⟩ := ih h
      refine ⟨k + 1, by simpa using hk, haddr.trans ?_, nofun⟩
      rw [wordAddr, wordAddr, BitVec.add_assoc, BitVec.add_comm 1, BitVec.ofNat_add]
      rfl

theorem exists_of_mem_insideRuns_textWords {a : Addr} (h : a ∈ insideRuns (textWords p base noRun text)) :
    ∃ k, 0 < k ∧ k < text.length ∧ a = wordAddr base k := by
  obtain ⟨x, hx, hrun, rfl⟩ := exists_of_mem_insideRuns h
  obtain ⟨k, hk, haddr, hfirst⟩ := addr_of_mem_textWords hx
  exact ⟨k, Nat.pos_of_ne_zero (mt hfirst hrun), hk, haddr⟩

/-- LUIui branch nowhere. -/
theorem targets_luiWords (hx : ∀ l ∈ luis, l.1 ≠ 3) :
    (textWords p base run (luiWords luis)).filterMap (TextWord.target p) = [] := by
  induction luis generalizing base run with
  | nil => rfl
  | cons l luis ih =>
    obtain ⟨hl, hrest⟩ := List.forall_mem_cons.1 hx
    have none : (textWordAt p base run (encode (.luiui l.1 l.2))).target p = none := by
      simp [TextWord.target, decodeText_encode_luiui p l.2 hl]
    change (textWords p base run (encode (.luiui l.1 l.2) :: luiWords luis)).filterMap _ = _
    rw [textWords_cons, List.filterMap_cons_none none]
    exact ih hrest

/-- A word that decodes gives no ground, if the run before it loads what it reads and its condition has a meaning. -/
theorem ground_of_ok {w : Word} (hd : decodeText p w = .ok i) (hbanks : ∀ b ∈ banksRead i, (run[b]).isSome = true)
    (hcond : ∀ cc, conditionOf i = some cc → (p.ccTable[cc.toNat]'cc.isLt).isSome = true) :
    (textWordAt p base run w).ground p = none := by
  have loaded : ((banksRead i).all fun b => run[b].isSome) = true := List.all_eq_true.2 hbanks
  simp only [TextWord.ground, textWordAt_decoded, textWordAt_run, hd, loaded, if_true]
  cases hc : conditionOf i with
  | none => rfl
  | some cc => exact if_neg (Option.isSome_iff_ne_none.1 (hcond cc hc))

/-- A run of LUIui and its consumer is accepted as a text, if it loads what the consumer reads, the consumer's condition
has a meaning, and neither reset nor the consumer's branch leads behind the first word (R310). -/
theorem refusedAtLoad_luiWords_consumer (hx : ∀ l ∈ luis, l.1 ≠ 3) (hi : banksRead i ≠ [])
    (hbanks : ∀ b ∈ banksRead i, ((runThrough p noRun (luiWords luis))[b]).isSome = true)
    (hcond : ∀ cc, conditionOf i = some cc → (p.ccTable[cc.toNat]'cc.isLt).isSome = true)
    (hentry : ∀ x, x = p.resetPc ∨
      branchTarget p (endOf base (luiWords luis)) (runThrough p noRun (luiWords luis)) i = some x →
      ∀ k, 0 < k → k < luis.length + 1 → x ≠ wordAddr base k) :
    refusedAtLoad p base (luiWords luis ++ [encode i]) = none := by
  have hd := decodeText_encode_consumer p hi
  refine refusedAtLoad_eq_none.2 ⟨fun x hmem => ?_, fun x hmem hinside => ?_⟩
  · rw [textWords_append, textWords_cons, textWords_nil] at hmem
    obtain hmem | hmem := List.mem_append.1 hmem
    · exact List.findSome?_eq_none_iff.1 (ground_luiWords hx) x hmem
    · rw [List.mem_singleton.1 hmem]
      exact ground_of_ok hd hbanks hcond
  · obtain ⟨k, hpos, hk, rfl⟩ := exists_of_mem_insideRuns_textWords hinside
    refine hentry _ ?_ k hpos (by simpa [luiWords] using hk) rfl
    rw [textWords_append, textWords_cons, textWords_nil, List.filterMap_append, targets_luiWords hx] at hmem
    simpa [TextWord.target, hd] using hmem

theorem refusedAtLoad_splitImm24 {k : Word} {last : BitVec 12 → Instr}
    (hbanks : banksRead (last (k.extractLsb' 0 12)) = [0]) (hcond : conditionOf (last (k.extractLsb' 0 12)) = none)
    (htarget : ∀ pc run, branchTarget p pc run (last (k.extractLsb' 0 12)) = none)
    (hreset : ∀ j, 0 < j → j < 2 → p.resetPc ≠ wordAddr base j) :
    refusedAtLoad p base ((splitImm24 k last).map encode) = none := by
  refine refusedAtLoad_luiWords_consumer (luis := [(0, k.extractLsb' 12 12)]) (by simp) (by simp [hbanks]) ?_
    (by simp [hcond]) fun x hx => ?_
  · simp [hbanks, luiWords, decodeText_encode_luiui, runAfter]
  · obtain rfl | hx := hx
    · exact hreset
    · simp [htarget] at hx

theorem refusedAtLoad_splitImm48 {a : Addr} {last : BitVec 12 → Instr}
    (hbanks : banksRead (last (a.extractLsb' 0 12)) = [0, 1, 2])
    (hcond : ∀ cc, conditionOf (last (a.extractLsb' 0 12)) = some cc → (p.ccTable[cc.toNat]'cc.isLt).isSome = true)
    (htarget : ∀ pc run, branchTarget p pc run (last (a.extractLsb' 0 12)) = runAddress run (a.extractLsb' 0 12))
    (hentry : ∀ x, x = p.resetPc ∨ x = a → ∀ j, 0 < j → j < 4 → x ≠ wordAddr base j) :
    refusedAtLoad p base ((splitImm48 a last).map encode) = none := by
  refine refusedAtLoad_luiWords_consumer
    (luis := [(2, a.extractLsb' 36 12), (1, a.extractLsb' 24 12), (0, a.extractLsb' 12 12)]) (by simp)
    (by simp [hbanks]) ?_ hcond fun x hx => hentry x ?_
  · simp [hbanks, luiWords, decodeText_encode_luiui, runAfter]
  · rw [htarget, runAddress_splitImm48, Option.some_inj] at hx
    exact hx.imp_right Eq.symm

/-- The words of an expansion are accepted as a text, if its condition has a meaning and neither reset nor its own jump
leads inside it (R310, U8). -/
theorem refusedAtLoad_expand (m : Macro)
    (hentry : ∀ x c, x = p.resetPc ∨ m = .jumpSub x ∨ m = .jump c x →
      ∀ k, 0 < k → k < (expand m).length → x ≠ wordAddr base k)
    (hcond : ∀ x c, m = .jump c x → (p.ccTable[c.toNat]'c.isLt).isSome = true) :
    refusedAtLoad p base ((expand m).map encode) = none := by
  cases m with
  | copy | addU | subU | and | or | xor | compU | store =>
    exact refusedAtLoad_splitImm24 rfl rfl (fun _ _ => rfl) (hentry p.resetPc 0 (.inl rfl))
  | jump c x =>
    refine refusedAtLoad_splitImm48 rfl ?_ (fun _ _ => rfl) fun y hy => hentry y c ?_
    · rintro cc ⟨⟩
      exact hcond x c rfl
    · exact hy.imp_right fun e => .inr (congrArg (Macro.jump c) e.symm)
  | jumpSub x =>
    refine refusedAtLoad_splitImm48 rfl nofun (fun _ _ => rfl) fun y hy => hentry y 0 ?_
    exact hy.imp_right fun e => .inl (congrArg Macro.jumpSub e.symm)

end

/-! ## The ten expansions -/

/-- Settles O53: the consumer of each expansion by its own rule, on the whole immediate. -/
theorem macrosActOnTheWholeImmediate : Obligations.MacrosActOnTheWholeImmediate := by
  intro k a t cc b s v over24 over48
  refine ⟨?copy, ?addU, ?subU, ?and, ?or, ?xor, ?compU, fun hadmit => ?store, fun hcc => ?taken, fun hcc => ?notTaken,
    fun hadmit => ?jumpSub, fun p base m hentry hcond => refusedAtLoad_expand m hentry hcond⟩
  case copy =>
    exact runsAll_splitImm24 (runs_of_moveZ (consumes_imm24 fun x => moveZ t x _))
      fun _ ⟨r, z, advances, frame⟩ => ⟨⟨r, z⟩, advances, frame⟩
  case addU =>
    exact runsAll_splitImm24 (runs_of_addZC (consumes_imm24 fun x => addZC t x _))
      fun _ ⟨r, z, c, advances, frame⟩ => ⟨⟨r, z, c⟩, advances, frame⟩
  case subU =>
    exact runsAll_splitImm24 (runs_of_subZC (consumes_imm24 fun x => subZC t x _))
      fun _ ⟨r, z, c, advances, frame⟩ =>
        ⟨⟨r.trans (sub_eq_ofInt _ _), z.trans sub_eq_zero_iff_toNat, c⟩, advances, frame⟩
  case and =>
    exact runsAll_splitImm24 (runs_of_moveZ (consumes_imm24 fun x => moveZ t (s.getDr t &&& x) _))
      fun _ ⟨r, z, advances, frame⟩ => ⟨⟨r, z⟩, advances, frame⟩
  case or =>
    exact runsAll_splitImm24 (runs_of_moveZ (consumes_imm24 fun x => moveZ t (s.getDr t ||| x) _))
      fun _ ⟨r, z, advances, frame⟩ => ⟨⟨r, z⟩, advances, frame⟩
  case xor =>
    exact runsAll_splitImm24 (runs_of_moveZ (consumes_imm24 fun x => moveZ t (s.getDr t ^^^ x) _))
      fun _ ⟨r, z, advances, frame⟩ => ⟨⟨r, z.trans BitVec.xor_eq_zero_iff⟩, advances, frame⟩
  case compU =>
    exact runsAll_splitImm24 (runs_of_compareZC (consumes_imm24 fun x => compareZC t x _))
      fun _ ⟨z, c, advances, frame⟩ => ⟨⟨z.trans sub_eq_zero_iff_toNat, c⟩, advances, frame⟩
  case store =>
    exact runsAll_splitImm24
      (runs_of_memWrite (consumes_imm24 fun x => andThen (memWrite (s.getAr b) x _) complete) hadmit)
      fun _ => id
  case taken =>
    refine runsAll_splitImm48 (runs_of_completeAt
      ((consumes_imm48 fun x => whenCond cc _ (completeAt x _) (complete _)).trans (whenCond_of_holds hcc)))
      fun _ ⟨continues, frame⟩ => ⟨continues, frame_of_afterImm48 frame⟩
  case notTaken =>
    refine runsAll_splitImm48 (runs_of_completeAt
      ((consumes_imm48 fun x => whenCond cc _ (completeAt x _) (complete _)).trans (whenCond_of_not_holds hcc)))
      fun _ ⟨⟨pc, unloaded⟩, frame⟩ => ⟨⟨pc.trans ?_, unloaded⟩, frame_of_afterImm48 frame⟩
    rw [pc_afterImm48]
    exact BitVec.add_assoc s.pc 3 1
  case jumpSub =>
    refine runsAll_splitImm48 (runs_of_link (needUimm_afterImm48 s a _) hadmit fun u hu => ?_)
      fun _ ⟨ssp, lr, stored, continues, frame⟩ =>
        ⟨ssp, lr.trans (pc_afterImm48 s a), stored, continues, frame_of_afterImm48 frame⟩
    have bank : u.bank = (s.afterImm48 a).bank := by
      obtain ⟨w, store, rfl⟩ := link_eq_next.1 hu
      obtain ⟨-, -, rfl⟩ := memWriteWide_eq_next.1 store
      rfl
    calc u.uimm48 (a.extractLsb' 0 12) = (s.afterImm48 a).uimm48 (a.extractLsb' 0 12) := by
          simp only [State.uimm48, bank]
      _ = a := uimm48_afterImm48 s a

end Sys2Proof.Machine
end

section
/-!
Opclass 0000 without its shifts, and the conditional moves (O15 to O19): what a no-operation, a move or logical result,
a sum, a difference, a compare, a test and a conditional move write.
-/

namespace Sys2Proof.Machine

/-! ## NOP and BTP -/

/-- Settles O18: both only complete. -/
theorem nopAndPadOnlyAdvance : Obligations.NopAndPadOnlyAdvance :=
  fun _ => ⟨runs_writesNothing rfl, runs_writesNothing rfl⟩

/-! ## Moves and logic -/

/-- The complement of a word, as a number (R106). -/
theorem not_eq_ofNat (x : Word) : ~~~x = BitVec.ofNat 24 (2 ^ 24 - 1 - x.toNat) := by
  apply BitVec.eq_of_toNat_eq
  rw [BitVec.toNat_not, BitVec.toNat_ofNat]
  omega

/-- Settles O15: each word is the encoder's word of its instruction, and each instruction ends as a move of its result
to DRt. -/
theorem movesAndLogicWriteTargetAndZ : Obligations.MovesAndLogicWriteTargetAndZ := by
  intro p t u s
  refine ⟨?movWord, ?notWord, ?andWord, ?orWord, ?xorWord, runs_of_moveZ rfl, ?not, runs_of_moveZ rfl,
    runs_of_moveZ rfl, runs_of_moveZ rfl⟩
  case not =>
    rw [← not_eq_ofNat]
    exact runs_of_moveZ rfl
  all_goals exact decode_of_eq_encode (Laws.encode_eq_formula _) rfl rfl

/-! ## Sums, differences, compares and tests -/

/-- Settles O16: ADDur and SUBur are the shared sum and difference; the difference of words is that of their
numbers. -/
theorem unsignedSumsWriteCarryAndBorrow : Obligations.UnsignedSumsWriteCarryAndBorrow := by
  intro t u s
  refine ⟨runs_of_addZC rfl, ?_⟩
  rw [← sub_eq_ofInt]
  exact runs_of_subZC rfl

/-- A test writes Z of the value tested, and nothing else (R115). -/
theorem runs_of_testZ {i : Instr} {s : State} {r : Word} (h : exec i s = complete (s.withFlags (flagsZ r s.flags))) :
    Runs i s fun s' => (s'.flags.z = true ↔ r = 0) ∧ Advances s s' ∧ Frame [.z] s s' :=
  ⟨_, h, zeroFlag_iff r, ⟨rfl, rfl⟩, (frame_flagsZ s r).trans (frame_advance _ _ _)⟩

/-- Settles O17: CMPur is the shared compare, whose difference is zero exactly for equal words; TSTur is a test. -/
theorem unsignedComparesWriteFlagsOnly : Obligations.UnsignedComparesWriteFlagsOnly := by
  intro t u s
  have compare := runs_of_compareZC (i := .cmpur t u) (s := s) rfl
  rw [sub_eq_zero] at compare
  exact ⟨compare, runs_of_testZ rfl⟩

/-! ## Condition codes without a meaning -/

section
variable {p : Params} {base : Addr} {cc : BitVec 4} {s : State} {yes no : Run State} {before after : List Word}
  {i : Instr}

/-- Whether a code has a meaning does not depend on the flags (R42). -/
theorem ccHolds_eq_none {f : Flags} : ccHolds p cc f = none ↔ p.ccTable[cc.toNat]'cc.isLt = none :=
  Option.map_eq_none_iff

theorem whenCond_of_reserved (h : ccHolds s.params cc s.flags = none) :
    whenCond cc s yes no = .refused (.condReserved cc) := by
  simp only [whenCond, h]

/-- A conditional whose code has no meaning gives that ground to refuse a text, if the run before it loads what it
reads (U8). -/
theorem ground_of_condReserved {run : LuiRun} {w : Word} (hd : decodeText p w = .ok i)
    (hbanks : ∀ b ∈ banksRead i, (run[b]).isSome = true) (hcond : conditionOf i = some cc)
    (hcc : p.ccTable[cc.toNat]'cc.isLt = none) : (textWordAt p base run w).ground p = some (.condReserved cc) := by
  have loaded : ((banksRead i).all fun b => run[b].isSome) = true := List.all_eq_true.2 hbanks
  simp only [TextWord.ground, textWordAt_decoded, textWordAt_run, hd, loaded, hcond, hcc, if_true]

/-- After words that give no ground, a text is refused at such a conditional (U8). -/
theorem refusedAtLoad_of_condReserved (hd : decodeText p (encode i) = .ok i)
    (hbanks : ∀ b ∈ banksRead i, ((runThrough p noRun before)[b]).isSome = true) (hcond : conditionOf i = some cc)
    (hcc : p.ccTable[cc.toNat]'cc.isLt = none) (hbefore : refusedAtLoad p base before = none) :
    refusedAtLoad p base (before ++ encode i :: after) = some (.condReserved cc) :=
  refusedAtLoad_of_ground hbefore (ground_of_condReserved hd hbanks hcond hcc)

end

/-! ## Conditional moves -/

/-- The sign-extended immediate is its signed value as a word (R148). -/
theorem sext24_eq_ofInt {n : Nat} (imm : BitVec n) : sext24 imm = BitVec.ofInt 24 imm.toInt := rfl

/-- Settles O19: the three answers of the condition table, a move, nothing, or the refusal. -/
theorem conditionalMovesMoveOrNot : Obligations.ConditionalMovesMoveOrNot := by
  intro t u cc imm s
  refine ⟨fun holds => ?moves, fun fails => ?nothing, fun reserved => ?refuses⟩
  case moves =>
    rw [← sext24_eq_ofInt]
    exact ⟨runs_of_moveZ (whenCond_of_holds holds), runs_of_moveZ (whenCond_of_holds holds)⟩
  case nothing =>
    exact ⟨runs_writesNothing (whenCond_of_not_holds fails), runs_writesNothing (whenCond_of_not_holds fails)⟩
  case refuses =>
    have hcc := ccHolds_eq_none.1 reserved
    refine ⟨whenCond_of_reserved reserved, whenCond_of_reserved reserved, fun base before after hbefore => ⟨?_, ?_⟩⟩
    · exact refusedAtLoad_of_condReserved (decode_of_eq_encode rfl rfl rfl) nofun rfl hcc hbefore
    · exact refusedAtLoad_of_condReserved (decode_of_eq_encode rfl rfl rfl) nofun rfl hcc hbefore

end Sys2Proof.Machine
end

section
/-!
Opclass 0001: LUIui, and the seven forms that act on bank 0 above the 12 bits of the instruction (O23, O24).
-/

namespace Sys2Proof.Machine

/-! ## LUIui -/

section
variable {s : State} {imm : Bank}

theorem exec_luiui {x : BitVec 2} {k : Fin 3} (hk : k.val = x.toNat) :
    exec (.luiui x imm) s = .next (s.afterLui k imm) := by
  obtain ⟨_, hlt⟩ := k
  subst hk
  exact dif_pos hlt

theorem exec_luiui_of_no_bank {x : BitVec 2} (hx : ¬x.toNat < 3) :
    exec (.luiui x imm) s = .refused (.reservedEncoding (encode (.luiui x imm)) .noSuchBank) :=
  dif_neg hx

theorem bank_afterLui (k : Fin 3) : (s.afterLui k imm).bank[k] = imm := Vector.getElem_set_self k.isLt

theorem loaded_afterLui (k : Fin 3) : (s.afterLui k imm).loaded[k] = true := Vector.getElem_set_self k.isLt

theorem loaded_afterLui_ne {j k : Fin 3} (h : j ≠ k) : (s.afterLui k imm).loaded[j] = s.loaded[j] :=
  Vector.getElem_set_ne k.isLt j.isLt (Fin.val_ne_of_ne h.symm)

end

/-- Settles O23: a code below 3 gives the state after LUIui of that bank, and the code 3 is refused. -/
theorem luiLoadsOneBank : Obligations.LuiLoadsOneBank := by
  intro x imm s
  refine ⟨fun k hk => ?loads, ?reserved⟩
  case loads =>
    exact ⟨_, exec_luiui hk, bank_afterLui k, loaded_afterLui k, fun _ hj => loaded_afterLui_ne hj, rfl,
      frame_afterLui s k imm⟩
  case reserved =>
    exact fun hx => exec_luiui_of_no_bank (by simp [hx])

/-! ## The operand of the `[OPC]ui` forms -/

section
variable {s : State}

/-- Bank 0 above the 12 bits of the instruction, as a number (R120). -/
theorem uimm24_eq_ofNat (imm : BitVec 12) :
    s.uimm24 imm = BitVec.ofNat 24 (s.bank[0].toNat * 2 ^ 12 + imm.toNat) := by
  apply BitVec.eq_of_toNat_eq
  have value : (s.uimm24 imm).toNat = s.bank[0].toNat * 2 ^ 12 + imm.toNat := by
    rw [State.uimm24, BitVec.toNat_append, ← Nat.shiftLeft_add_eq_or_of_lt imm.isLt, Nat.shiftLeft_eq]
  rw [BitVec.toNat_ofNat, ← value, Nat.mod_eq_of_lt (s.uimm24 imm).isLt]

theorem needUimm_of_bank0 {go : Run State} (h : s.loaded[0] = true) : needUimm [0] s go = go :=
  if_pos (by simpa using h)

end

/-- Settles O24: with bank 0 loaded, each form is the shared operation of its register form, on the operand made with
the bank. -/
theorem upperImmediateFormsUseTheBank : Obligations.UpperImmediateFormsUseTheBank := by
  intro t imm s h k
  have operand : k = s.uimm24 imm := (uimm24_eq_ofNat imm).symm
  rw [operand]
  refine ⟨?mov, ?add, ?sub, ?and, ?or, ?xor, ?compare⟩
  case mov | and | or | xor => exact runs_of_moveZ (needUimm_of_bank0 h)
  case add => exact runs_of_addZC (needUimm_of_bank0 h)
  case sub =>
    rw [← sub_eq_ofInt]
    exact runs_of_subZC (needUimm_of_bank0 h)
  case compare =>
    have flags := runs_of_compareZC (i := .cmpui t imm) (needUimm_of_bank0 h)
    rwa [sub_eq_zero] at flags

end Sys2Proof.Machine
end

section
/-!
Opclasses 0010 and 0011 without their shifts (O27, O28, O29): the exact signed results behind `add24` and `sub24`, and
what a signed sum, difference, compare, test and move write.
-/

namespace Sys2Proof.Machine

/-! ## Exact signed results -/

section
variable (a b : Word)

theorem add24_r : (add24 a b).r = BitVec.ofInt 24 (a.toInt + b.toInt) := by
  change BitVec.ofNat 24 (a.toNat + b.toNat) = _
  rw [← BitVec.add_def, BitVec.ofInt_add, BitVec.ofInt_toInt, BitVec.ofInt_toInt]

theorem sub24_r : (sub24 a b).r = BitVec.ofInt 24 (a.toInt - b.toInt) := by
  apply BitVec.eq_of_toInt_eq
  rw [BitVec.toInt_ofInt]
  exact BitVec.toInt_sub

/-- The sign rule for the overflow of a sum is the library's (R31). -/
theorem add24_ovf : (add24 a b).ovf = a.saddOverflow b :=
  (BitVec.saddOverflow_eq a b).symm

/-- The sign rule for the overflow of a difference is the library's, which lists the two cases by sign (R31). -/
theorem sub24_ovf : (sub24 a b).ovf = a.ssubOverflow b := by
  rw [BitVec.ssubOverflow_eq]
  change (a.msb != b.msb && (a - b).msb != a.msb) = _
  cases a.msb <;> cases b.msb <;> simp

theorem add24_ovf_iff : (add24 a b).ovf = true ↔ a.toInt + b.toInt < -2 ^ 23 ∨ 2 ^ 23 ≤ a.toInt + b.toInt := by
  rw [add24_ovf, BitVec.saddOverflow, Bool.or_eq_true, decide_eq_true_iff, decide_eq_true_iff, or_comm]

theorem sub24_ovf_iff : (sub24 a b).ovf = true ↔ a.toInt - b.toInt < -2 ^ 23 ∨ 2 ^ 23 ≤ a.toInt - b.toInt := by
  rw [sub24_ovf, BitVec.ssubOverflow, Bool.or_eq_true, decide_eq_true_iff, decide_eq_true_iff, or_comm]

/-- The top bit of a difference is wrong about its sign exactly when the difference overflows, so that `N` and `V`
together give the order (R32, R145). -/
theorem negFlag_sub24_ne_ovf_iff : negFlag (sub24 a b).r ≠ (sub24 a b).ovf ↔ a.toInt < b.toInt := by
  have sign : negFlag (sub24 a b).r = true ↔ (a.toInt - b.toInt).bmod (2 ^ 24) < 0 := by
    rw [negFlag_iff, sub24_r, BitVec.toInt_ofInt]
  have := a.le_toInt
  have := a.toInt_lt
  have := b.le_toInt
  have := b.toInt_lt
  rw [Ne, Bool.eq_iff_iff, sign, sub24_ovf_iff, Int.bmod_def]
  omega

end

/-- Sign extension keeps the signed value (R140). -/
theorem toInt_sext24 {n : Nat} (imm : BitVec n) (h : n ≤ 24) : (sext24 imm).toInt = imm.toInt :=
  BitVec.toInt_signExtend_of_le h

/-! ## The families of signed operations -/

section
variable {i : Instr} {s : State} {t : BitVec 4} {a k r : Word} {v : Bool} {x : Int}

/-- A result with `{Z, N, V}` is that of an exact signed value, if it is the value modulo 2^24 and `V` says whether the
value is out of range. -/
theorem runs_of_resultZNV (h : exec i s = complete (s.resultZNV t r v)) (hr : r = BitVec.ofInt 24 x)
    (hv : v = true ↔ x < -2 ^ 23 ∨ 2 ^ 23 ≤ x) : Runs i s (WritesZNV t x s) := by
  subst hr
  exact ⟨_, h, State.getDr_setDr_self .., zeroFlag_iff _, negFlag_iff _, hv, ⟨rfl, rfl⟩,
    (frame_resultZNV s t _ v).trans (frame_advance _ _ _)⟩

theorem runs_of_addZNV (h : exec i s = addZNV t k s) : Runs i s (WritesZNV t ((s.getDr t).toInt + k.toInt) s) :=
  runs_of_resultZNV h (add24_r _ k) (add24_ovf_iff _ k)

theorem runs_of_subZNV (h : exec i s = subZNV t a k s) : Runs i s (WritesZNV t (a.toInt - k.toInt) s) :=
  runs_of_resultZNV h (sub24_r a k) (sub24_ovf_iff a k)

/-- A signed compare orders DRt and the source by `Z`, `N` and `V`, and writes nothing else (R145). -/
theorem runs_of_compareZNV (h : exec i s = compareZNV t k s) :
    Runs i s fun s' => (s'.flags.z = true ↔ (s.getDr t).toInt = k.toInt) ∧
      (s'.flags.n ≠ s'.flags.v ↔ (s.getDr t).toInt < k.toInt) ∧
      (s'.flags.v = true ↔ (s.getDr t).toInt - k.toInt < -2 ^ 23 ∨ 2 ^ 23 ≤ (s.getDr t).toInt - k.toInt) ∧
      Advances s s' ∧ Frame [.z, .n, .v] s s' := by
  have equal : zeroFlag (sub24 (s.getDr t) k).r = true ↔ (s.getDr t).toInt = k.toInt := by
    rw [zeroFlag_iff, BitVec.toInt_inj]
    exact sub_eq_zero
  exact ⟨_, h, equal, negFlag_sub24_ne_ovf_iff _ k, sub24_ovf_iff _ k, ⟨rfl, rfl⟩,
    (frame_flagsZNV s _ _).trans (frame_advance _ _ _)⟩

/-- A signed test writes `Z` and `N` of the value tested, and nothing else (R146). -/
theorem runs_of_testZN (h : exec i s = complete (s.withFlags (flagsZN r s.flags))) :
    Runs i s fun s' => (s'.flags.z = true ↔ r = 0) ∧ (s'.flags.n = true ↔ r.toInt < 0) ∧ Advances s s' ∧
      Frame [.z, .n] s s' :=
  ⟨_, h, zeroFlag_iff r, negFlag_iff r, ⟨rfl, rfl⟩, (frame_flagsZN s r).trans (frame_advance _ _ _)⟩

theorem runs_of_resultZN (h : exec i s = complete (s.resultZN t r)) : Runs i s (WritesZN t r s) :=
  ⟨_, h, State.getDr_setDr_self .., zeroFlag_iff r, negFlag_iff r, ⟨rfl, rfl⟩,
    (frame_resultZN s t r).trans (frame_advance _ _ _)⟩

end

/-! ## The instructions -/

/-- Settles O27: each form is the shared signed sum or difference of its operands; NEGsr subtracts from zero. -/
theorem signedSumsWriteOverflow : Obligations.SignedSumsWriteOverflow := by
  intro t u imm s
  have immediate : (sext24 imm).toInt = imm.toInt := toInt_sext24 imm (by decide)
  refine ⟨runs_of_addZNV rfl, runs_of_subZNV rfl, ?neg, ?addImmediate, ?subImmediate⟩
  case neg =>
    rw [← Int.zero_sub]
    exact runs_of_subZNV (a := 0) rfl
  case addImmediate =>
    rw [← immediate]
    exact runs_of_addZNV rfl
  case subImmediate =>
    rw [← immediate]
    exact runs_of_subZNV rfl

/-- Settles O28: CMPsr and CMPsi are the shared signed compare; TSTsr is a signed test, and a word is zero when its
signed value is. -/
theorem signedComparesOrderTheOperands : Obligations.SignedComparesOrderTheOperands := by
  intro t u imm s a compares
  refine ⟨runs_of_compareZNV rfl, ?immediate, ?test⟩
  case immediate =>
    rw [← toInt_sext24 imm (by decide)]
    exact runs_of_compareZNV rfl
  case test =>
    have flags := runs_of_testZN (i := .tstsr t) (s := s) rfl
    rwa [← BitVec.toInt_inj] at flags

/-- Settles O29: the word is the encoder's word of MOVsi, which ends as a result with `{Z, N}`. -/
theorem signedMoveExtends : Obligations.SignedMoveExtends := by
  intro p t imm s
  rw [← sext24_eq_ofInt]
  exact ⟨decode_of_eq_encode (Laws.encode_eq_formula _) rfl rfl, runs_of_resultZN rfl⟩

end Sys2Proof.Machine
end

section
/-!
Opclasses 0100 and 0101, loads and stores (O30, O31, O32): one rule for each shape of load and store, one cell or two,
that says what a completed access leaves and how a rejected or empty cell stops it.
-/

namespace Sys2Proof.Machine

/-! ## The two halves of a 48-bit value -/

section
variable {p : Params} {s : State} {a v : Addr}

/-- Cut into its two cells and joined again, a value is what it was, in either order of the halves (R53). -/
theorem joinCells_firstCell_secondCell : joinCells p (firstCell p v) (secondCell p v) = v := by
  have halves : v.extractLsb' 24 24 ++ v.extractLsb' 0 24 = v := BitVec.extractLsb'_append_extractLsb' (w := 24)
  unfold joinCells firstCell secondCell
  cases p.wideLowFirst with
  | false => exact halves
  | true => exact halves

theorem holdsWide_iff :
    s.holdsWide a v ↔ s.cell a = some (firstCell s.params v) ∧ s.cell (a + 1) = some (secondCell s.params v) := by
  unfold State.holdsWide firstCell secondCell
  cases s.params.wideLowFirst with
  | false => rfl
  | true => rfl

/-- A two-cell read gives the value its cells hold. -/
theorem memReadWide_of_holdsWide (hadmit : admitsWide s.params a .read) (hholds : s.holdsWide a v) :
    memReadWide a s = .next v := by
  obtain ⟨firstAdmitted, secondAdmitted⟩ := hadmit
  obtain ⟨first, second⟩ := holdsWide_iff.1 hholds
  exact memReadWide_eq_next.2 ⟨_, _, memRead_eq_next.2 ⟨firstAdmitted, first⟩,
    memRead_eq_next.2 ⟨secondAdmitted, second⟩, joinCells_firstCell_secondCell.symm⟩

end

/-! ## One rule per shape of load and store -/

section
variable {i : Instr} {s : State} {a : Addr}

/-- A one-cell load writes DRt and nothing else, or stops at its cell (R52, R58). -/
theorem runs_or_stops_of_memRead {t : BitVec 4}
    (h : exec i s = andThen (memRead a s) fun v => complete (s.setDr t v)) :
    (∀ v, memAdmits s.params a .read = true → s.cell a = some v →
      Runs i s fun s' => s'.getDr t = v ∧ Advances s s' ∧ Frame [.dr t] s s') ∧
    StopsAtRead (exec i s) s a := by
  refine ⟨fun v hadmit hcell => ?runs, h ▸ stopsAtRead_andThen⟩
  have read : memRead a s = .next v := memRead_eq_next.2 ⟨hadmit, hcell⟩
  exact ⟨_, h.trans (congrArg (andThen · _) read), State.getDr_setDr_self .., ⟨rfl, rfl⟩,
    (frame_setDr s t v).trans (frame_advance _ _ _)⟩

/-- A one-cell store replaces its cell and nothing else, or stops at it (R52, R58). -/
theorem runs_or_stops_of_memWrite {v : Word} (h : exec i s = andThen (memWrite a v s) complete) :
    (memAdmits s.params a .write = true →
      Runs i s fun s' => s'.cell a = some v ∧ Advances s s' ∧ Frame (storedAt a) s s') ∧
    StopsAtWrite (exec i s) s a :=
  ⟨runs_of_memWrite h, h ▸ stopsAtWrite_andThen⟩

/-- A two-cell load writes ARt and nothing else (R53). -/
theorem runs_of_memReadWide {t : BitVec 2} {v : Addr}
    (h : exec i s = andThen (memReadWide a s) fun v => complete (s.setAr t v))
    (hadmit : admitsWide s.params a .read) (hholds : s.holdsWide a v) :
    Runs i s fun s' => s'.getAr t = v ∧ Advances s s' ∧ Frame [.ar t] s s' := by
  have read : memReadWide a s = .next v := memReadWide_of_holdsWide hadmit hholds
  exact ⟨_, h.trans (congrArg (andThen · _) read), State.getAr_setAr_self .., ⟨rfl, rfl⟩,
    (frame_setAr s t v).trans (frame_advance _ _ _)⟩

/-- A two-cell store leaves its value in its two cells and changes nothing else (R53). -/
theorem runs_of_memWriteWide {v : Addr} (h : exec i s = andThen (memWriteWide a v s) complete)
    (hadmit : admitsWide s.params a .write) :
    Runs i s fun s' => s'.holdsWide a v ∧ Advances s s' ∧ Frame (storedWideAt a) s s' := by
  obtain ⟨u, write⟩ := exists_memWriteWide v hadmit
  have holds : u.holdsWide a v := holdsWide_of_memWriteWide write
  have pc : u.pc = s.pc := (memWriteWide_keeps write).1
  refine ⟨_, h.trans (congrArg (andThen · complete) write), holds, ⟨congrArg (· + 1) pc, rfl⟩, ?frame⟩
  refine ((frame_memWriteWide write).trans (frame_advance _ _ _)).mono fun l hl => ?_
  simp only [storedAt, storedWideAt, List.mem_append, List.mem_cons, List.not_mem_nil] at hl ⊢
  tauto

end

/-! ## The instructions -/

/-- Settles O30: both forms are one-cell loads, from ARs or from the offset address. -/
theorem loadsReadOneCell : Obligations.LoadsReadOneCell :=
  fun _ _ _ _ => ⟨runs_or_stops_of_memRead rfl, runs_or_stops_of_memRead rfl⟩

/-- Settles O31: the word is the encoder's word of STso, and each form is a one-cell store; STui's value is made with
bank 0. -/
theorem storesWriteOneCell : Obligations.StoresWriteOneCell := by
  intro p b u i10 i12 i14 s
  refine ⟨?word, runs_or_stops_of_memWrite rfl, runs_or_stops_of_memWrite rfl, ?immediate,
    fun hbank => ?upperImmediate⟩
  case word => exact decode_of_eq_encode (Laws.encode_eq_formula _) rfl rfl
  case immediate =>
    rw [← sext24_eq_ofInt]
    exact runs_or_stops_of_memWrite rfl
  case upperImmediate =>
    rw [← uimm24_eq_ofNat]
    exact runs_or_stops_of_memWrite (needUimm_of_bank0 hbank)

/-- Settles O32: LDAso is a two-cell load and STAso a two-cell store, each stopped at the first cell that stops it. -/
theorem addressRegistersUseTwoCells : Obligations.AddressRegistersUseTwoCells :=
  fun _ _ _ _ => ⟨fun _ => runs_of_memReadWide rfl, runs_of_memWriteWide rfl, stopsAtWideRead_andThen,
    stopsAtWideWrite_andThen⟩

end Sys2Proof.Machine
end

section
/-!
Opclass 0110, the address-register ALU (O33 to O36): the two halves of an address register, a result in ARt, and
address sums and differences as those of numbers, modulo 2^48.
-/

namespace Sys2Proof.Machine

/-! ## The two halves of an address register -/

section
variable (a : Addr) (v x y : Word)

/-- The two halves joined, as a number (R21). -/
theorem toNat_join_halves : (x ++ y).toNat = x.toNat * 2 ^ 24 + y.toNat := by
  rw [BitVec.toNat_append, ← Nat.shiftLeft_add_eq_or_of_lt y.isLt, Nat.shiftLeft_eq]

theorem toNat_halfOfAddr_low : (halfOfAddr a .low).toNat = a.toNat % 2 ^ 24 :=
  BitVec.extractLsb'_toNat 0 24 a

theorem toNat_halfOfAddr_high : (halfOfAddr a .high).toNat = a.toNat / 2 ^ 24 := by
  rw [halfOfAddr, BitVec.extractLsb'_toNat, Nat.shiftRight_eq_div_pow, Nat.mod_eq_of_lt]
  exact Nat.div_lt_of_lt_mul a.isLt

theorem toNat_withHalf_low : (withHalf a v .low).toNat = a.toNat / 2 ^ 24 * 2 ^ 24 + v.toNat := by
  rw [withHalf, toNat_join_halves, toNat_halfOfAddr_high]

theorem toNat_withHalf_high : (withHalf a v .high).toNat = v.toNat * 2 ^ 24 + a.toNat % 2 ^ 24 := by
  rw [withHalf, toNat_join_halves, toNat_halfOfAddr_low]

theorem halfOfAddr_low_eq_ofNat : halfOfAddr a .low = BitVec.ofNat 24 (a.toNat % 2 ^ 24) := by
  rw [← toNat_halfOfAddr_low, BitVec.ofNat_toNat, BitVec.setWidth_eq]

theorem halfOfAddr_high_eq_ofNat : halfOfAddr a .high = BitVec.ofNat 24 (a.toNat / 2 ^ 24) := by
  rw [← toNat_halfOfAddr_high, BitVec.ofNat_toNat, BitVec.setWidth_eq]

/-- Once each half has been replaced, nothing of the old value is left. -/
theorem withHalf_low_high : withHalf (withHalf a x .low) y .high = y ++ x :=
  congrArg (y ++ ·) BitVec.extractLsb'_append_eq_right

theorem withHalf_high_low : withHalf (withHalf a y .high) x .low = y ++ x :=
  congrArg (· ++ x) BitVec.extractLsb'_append_eq_left

end

/-! ## A result in ARt -/

section
variable {i j : Instr} {s : State} {t : BitVec 2} {r v : Addr} {P post : State → Prop}

/-- An instruction that ends with a value in ARt writes nothing else, no flag either (R180). -/
theorem runs_of_setAr (h : exec i s = complete (s.setAr t v)) (hv : v = r) :
    Runs i s fun s' => s'.getAr t = r ∧ Advances s s' ∧ Frame [.ar t] s s' := by
  subst hv
  exact ⟨_, h, State.getAr_setAr_self .., ⟨rfl, rfl⟩, (frame_setAr s t v).trans (frame_advance _ _ _)⟩

/-- Two instructions one after another, from what each does. -/
theorem runsAll_pair (first : Runs i s P) (second : ∀ u, P u → Runs j u post) :
    RunsAll [i, j] s post := by
  obtain ⟨u, hu, hP⟩ := first
  obtain ⟨s', hs', hpost⟩ := second u hP
  refine ⟨s', ?_, hpost⟩
  simp only [runInstrs, hu, hs', andThen_next]

end

/-! ## Moves between the register files -/

theorem Frame.getDr {c : List Loc} {s s' : State} {d : BitVec 4} (h : Frame c s s') (hd : Loc.dr d ∉ c) :
    s'.getDr d = s.getDr d :=
  BitVec.eq_of_toNat_eq (Option.some.inj (h.2 (.dr d) hd))

/-- The bit of a half selector may be written with the fixed part of the word, as R181 and R182 do (R74). -/
theorem or_halfBit (fixed x y bit : Word) : fixed ||| x ||| y ||| bit = (fixed ||| bit) ||| x ||| y := by
  ac_rfl

section
variable {s : State} {t : BitVec 2} {d : BitVec 4}

/-- Two MOVAur into one register, by the two replacements of a half (R181). -/
theorem runsAll_movaur_pair {e : BitVec 4} {half half' : Half} {r : Addr}
    (hr : withHalf (withHalf (s.getAr t) (s.getDr d) half) (s.getDr e) half' = r) :
    RunsAll [.movaur t d half, .movaur t e half'] s fun s' => s'.getAr t = r ∧ Frame [.ar t] s s' := by
  refine runsAll_pair (runs_of_setAr rfl rfl) fun u ⟨first, _, frame⟩ => ?_
  have source : u.getDr e = s.getDr e := frame.getDr (by simp)
  obtain ⟨s', hs', second, -, frame'⟩ :=
    runs_of_setAr (i := .movaur t e half') (s := u) (r := r) rfl (by rw [first, source, hr])
  exact ⟨s', hs', second, (frame.trans frame').mono (by simp)⟩

end

/-- Settles O33: the moves replace or read a half, and the words are the encoder's words of them. -/
theorem halvesMoveBetweenTheFiles : Obligations.HalvesMoveBetweenTheFiles := by
  intro p t d s
  have toHalf (half : Half) := runs_of_setAr (i := .movaur t d half) (s := s) rfl rfl
  refine ⟨?wordToLow, ?wordToHigh, ?wordFromLow, ?wordFromHigh, ?toLow, ?toHigh, ?fromLow, ?fromHigh⟩
  case wordToLow | wordFromLow =>
    exact decode_of_eq_encode ((Laws.encode_eq_formula _).trans (BitVec.or_zero ..)) rfl rfl
  case wordToHigh | wordFromHigh =>
    exact decode_of_eq_encode ((Laws.encode_eq_formula _).trans (or_halfBit ..)) rfl rfl
  case toLow =>
    rw [← toNat_withHalf_low]
    simpa only [BitVec.toNat_inj] using toHalf .low
  case toHigh =>
    rw [← toNat_withHalf_high]
    simpa only [BitVec.toNat_inj] using toHalf .high
  case fromLow =>
    rw [← halfOfAddr_low_eq_ofNat]
    exact runs_of_moveZ rfl
  case fromHigh =>
    rw [← halfOfAddr_high_eq_ofNat]
    exact runs_of_moveZ rfl

/-- Settles O34: each move replaces a half, and two of them in either order replace both. -/
theorem twoHalfMovesSetTheWholeRegister : Obligations.TwoHalfMovesSetTheWholeRegister := by
  intro p t d e half s whole
  refine ⟨decode_of_eq_encode (Laws.encode_eq_formula _) rfl rfl, ?oneHalf, runsAll_movaur_pair (withHalf_low_high ..),
    runsAll_movaur_pair (withHalf_high_low ..)⟩
  case oneHalf =>
    obtain ⟨s', hs', value, -, frame⟩ := runs_of_setAr (i := .movaur t d half) (s := s) rfl rfl
    refine ⟨s', hs', frame, value.trans ?_⟩
    cases half with
    | low => rfl
    | high => rfl

/-! ## Address sums and differences -/

section
variable {a b : Addr} {x : Int}

/-- An address plus an operand that stands for `x` is their sum as numbers, modulo 2^48 (R180). -/
theorem add48_eq_ofInt (h : b = BitVec.ofInt 48 x) : add48 a b = BitVec.ofInt 48 (a.toNat + x) := by
  rw [BitVec.ofInt_add, BitVec.ofInt_natCast, BitVec.ofNat_toNat, BitVec.setWidth_eq, ← h]
  rfl

/-- And minus such an operand, their difference (R180). -/
theorem sub48_eq_ofInt (h : b = BitVec.ofInt 48 x) : sub48 a b = BitVec.ofInt 48 (a.toNat - x) := by
  rw [Int.sub_eq_add_neg, ← add48_eq_ofInt BitVec.ofInt_neg.symm, ← h, add48, sub48, BitVec.sub_eq_add_neg]

/-- The zero-extended operand stands for its unsigned value (R9). -/
theorem zext48_eq_ofInt {n : Nat} (v : BitVec n) : zext48 v = BitVec.ofInt 48 v.toNat := by
  rw [zext48, BitVec.ofInt_natCast, BitVec.ofNat_toNat]

/-- The sign-extended operand stands for its signed value (R9). -/
theorem sext48_eq_ofInt {n : Nat} (v : BitVec n) : sext48 v = BitVec.ofInt 48 v.toInt := rfl

end

/-- Settles O35: the words are the encoder's, and each form writes to ARt the sum or difference with its extended
operand. -/
theorem addressArithmeticExtendsAndWraps : Obligations.AddressArithmeticExtendsAndWraps := by
  intro p t b u imm s ends a du
  refine ⟨?words, ?addUnsigned, ?subUnsigned, ?addSigned, ?subSigned, ?addImmediate, ?subImmediate, ?loadAddress⟩
  case words =>
    refine ⟨?_, ?_, ?_, ?_, ?_, ?_, ?_⟩
    all_goals exact decode_of_eq_encode (Laws.encode_eq_formula _) rfl rfl
  case addUnsigned => exact runs_of_setAr rfl (add48_eq_ofInt (zext48_eq_ofInt _))
  case subUnsigned => exact runs_of_setAr rfl (sub48_eq_ofInt (zext48_eq_ofInt _))
  case addSigned | addImmediate | loadAddress => exact runs_of_setAr rfl (add48_eq_ofInt (sext48_eq_ofInt _))
  case subSigned | subImmediate => exact runs_of_setAr rfl (sub48_eq_ofInt (sext48_eq_ofInt _))

/-- Settles O36: ADRAso is a sum with PC; CMPAur tests the difference of the whole registers, which is zero exactly for
equal ones, and TSTAur the whole register. -/
theorem addressComparesUseAllBits : Obligations.AddressComparesUseAllBits := by
  intro t b imm s
  refine ⟨runs_of_setAr rfl (add48_eq_ofInt (sext48_eq_ofInt imm)), ?compare, ?test⟩
  case compare =>
    exact ⟨_, rfl, (zeroFlag_iff _).trans sub_eq_zero, decide_eq_true_iff, ⟨rfl, rfl⟩,
      (frame_flagsZC s _ _).trans (frame_advance _ _ _)⟩
  case test =>
    exact ⟨_, rfl, zeroFlag_iff _, ⟨rfl, rfl⟩, (frame_flagsZ s _).trans (frame_advance _ _ _)⟩

end Sys2Proof.Machine
end

section
/-!
Opclass 0111, control flow and linkage (O37 to O41): where a transfer goes, what a call leaves below SSP and in LR, and
what RET makes of it.
-/

namespace Sys2Proof.Machine

/-! ## Targets -/

/-- A PC-relative target is the sum of the base and the signed displacement as numbers, modulo 2^48 (R200). -/
theorem offsetAddr_eq_ofInt {n : Nat} (a : Addr) (v : BitVec n) :
    offsetAddr a v = BitVec.ofInt 48 (a.toNat + v.toInt) :=
  add48_eq_ofInt (sext48_eq_ofInt v)

section
variable {s : State}

/-- The three banks above the 12 bits of the instruction, as a number (R35). -/
theorem uimm48_eq_ofNat (imm : BitVec 12) :
    s.uimm48 imm = BitVec.ofNat 48 (s.bank[2].toNat * 2 ^ 36 + s.bank[1].toNat * 2 ^ 24 + s.bank[0].toNat * 2 ^ 12 +
      imm.toNat) := by
  have join {n : Nat} (x : BitVec n) (y : BitVec 12) : (x ++ y).toNat = x.toNat * 2 ^ 12 + y.toNat := by
    rw [BitVec.toNat_append, ← Nat.shiftLeft_add_eq_or_of_lt y.isLt, Nat.shiftLeft_eq]
  have value : (s.uimm48 imm).toNat = s.bank[2].toNat * 2 ^ 36 + s.bank[1].toNat * 2 ^ 24 + s.bank[0].toNat * 2 ^ 12 +
      imm.toNat := by
    rw [State.uimm48, join, join, join]
    omega
  rw [← value, BitVec.ofNat_toNat, BitVec.setWidth_eq]

theorem needUimm_of_banksLoaded {banks : List (Fin 3)} {go : Run State} (h : s.banksLoaded banks = true) :
    needUimm banks s go = go :=
  if_pos h

end

/-! ## Branches and jumps -/

/-- Settles O37: the word is the encoder's word of BALso, which only continues at its target. -/
theorem branchAlwaysIsTaken : Obligations.BranchAlwaysIsTaken := by
  intro p imm s
  rw [← offsetAddr_eq_ofInt]
  exact ⟨decode_of_eq_encode (Laws.encode_eq_formula _) rfl rfl, runs_of_completeAt rfl⟩

/-- A conditional transfer, by the three answers of the condition table (R42, R200). -/
theorem transfers_of_whenCond {i : Instr} {cc : BitVec 4} {a : Addr} {s : State}
    (h : exec i s = whenCond cc s (completeAt a s) (complete s)) :
    (ccHolds s.params cc s.flags = some true → Runs i s fun s' => Continues a s' ∧ Frame [] s s') ∧
    (ccHolds s.params cc s.flags = some false → Runs i s (WritesNothing s)) ∧
    (ccHolds s.params cc s.flags = none → exec i s = .refused (.condReserved cc)) :=
  ⟨fun holds => runs_of_completeAt (h.trans (whenCond_of_holds holds)),
    fun fails => runs_writesNothing (h.trans (whenCond_of_not_holds fails)),
    fun reserved => h.trans (whenCond_of_reserved reserved)⟩

/-- Settles O38: each form is a conditional transfer to its own target. -/
theorem transfersGoToTheirTargets : Obligations.TransfersGoToTheirTargets := by
  intro t d cc i12 s goes
  refine ⟨transfers_of_whenCond rfl, fun hbanks => ?banks, ?register, ?immediate⟩
  case banks =>
    rw [← uimm48_eq_ofNat]
    exact transfers_of_whenCond (needUimm_of_banksLoaded hbanks)
  case register | immediate =>
    rw [← offsetAddr_eq_ofInt]
    exact transfers_of_whenCond rfl

/-! ## Calls -/

section
variable {i c : Instr} {s t u : State} {a : Addr} {target : State → Addr}

/-- The link sequence leaves all that a call's target is made of (R207 to R210). -/
theorem link_keeps_operands (h : link s = .next u) :
    u.pc = s.pc ∧ (∀ b, u.getAr b = s.getAr b) ∧ (∀ d, u.getDr d = s.getDr d) ∧
      ∀ imm, u.uimm48 imm = s.uimm48 imm := by
  obtain ⟨w, store, rfl⟩ := link_eq_next.1 h
  obtain ⟨-, -, rfl⟩ := memWriteWide_eq_next.1 store
  exact ⟨rfl, fun _ => rfl, fun _ => rfl, fun _ => rfl⟩

/-- A call links and goes on at its target, or stops at the first cell below SSP that rejects the write (R212, R58). -/
theorem runs_or_stops_of_link (h : exec i s = andThen (link s) fun u => completeAt (target u) u)
    (htarget : ∀ u, link s = .next u → target u = a) :
    (admitsWide s.params (s.ssp - 2) .write → Runs i s (Links a s)) ∧ StopsAtWideWrite (exec i s) s (s.ssp - 2) :=
  ⟨fun hadmit => runs_of_link h hadmit htarget, h ▸ stopsAtWideWrite_link⟩

/-- The target of a call is a function of the state after the link sequence. -/
theorem exec_of_isCall (h : isCall c = true) : ∃ target : State → Addr, ∀ s,
    exec c s = needUimm (banksRead c) s (andThen (link s) fun u => completeAt (target u) u) := by
  cases c with
  | jsrur b => exact ⟨fun u => u.getAr b, fun _ => rfl⟩
  | jsrui imm => exact ⟨fun u => u.uimm48 imm, fun _ => rfl⟩
  | bsrsr d => exact ⟨fun u => offsetAddr u.pc (u.getDr d), fun _ => rfl⟩
  | bsrso imm => exact ⟨fun u => offsetAddr u.pc imm, fun _ => rfl⟩
  | _ => simp [isCall] at h

/-- A call that completes has linked. -/
theorem links_of_isCall (hc : isCall c = true) (ht : exec c s = .next t) : Links t.pc s t := by
  obtain ⟨target, hexec⟩ := exec_of_isCall hc
  obtain ⟨hbanks, hcall⟩ := needUimm_eq_next.1 ((hexec s).symm.trans ht)
  obtain ⟨u, linked, -⟩ := andThen_eq_next.1 hcall
  obtain ⟨w, store, -⟩ := link_eq_next.1 linked
  obtain ⟨first, second, -⟩ := memWriteWide_eq_next.1 store
  have same (u' : State) (hu' : link s = .next u') : target u' = target u := by
    cases hu'.symm.trans linked
    rfl
  obtain ⟨t', ht', links⟩ :=
    runs_of_link ((hexec s).trans (needUimm_of_banksLoaded hbanks)) ⟨first, second⟩ same
  cases ht.symm.trans ht'
  obtain ⟨ssp, lr, stored, continues, frame⟩ := links
  exact ⟨ssp, lr, stored, ⟨rfl, continues.2⟩, frame⟩

end

/-- Settles O39: each call is the link sequence and then its target, which the link sequence leaves as it was. -/
theorem callsLinkAndTransfer : Obligations.CallsLinkAndTransfer := by
  intro t d i12 i16 s calls
  refine ⟨?jsrur, fun hbanks => ?jsrui, ?bsrsr, ?bsrso⟩
  case jsrur =>
    refine runs_or_stops_of_link rfl fun u hu => ?_
    obtain ⟨-, ar, -, -⟩ := link_keeps_operands hu
    exact ar t
  case jsrui =>
    refine runs_or_stops_of_link (needUimm_of_banksLoaded hbanks) fun u hu => ?_
    obtain ⟨-, -, -, uimm⟩ := link_keeps_operands hu
    rw [uimm, uimm48_eq_ofNat]
  case bsrsr =>
    refine runs_or_stops_of_link rfl fun u hu => ?_
    obtain ⟨pc, -, dr, -⟩ := link_keeps_operands hu
    rw [pc, dr, offsetAddr_eq_ofInt]
  case bsrso =>
    refine runs_or_stops_of_link rfl fun u hu => ?_
    obtain ⟨pc, -, -, -⟩ := link_keeps_operands hu
    rw [pc, offsetAddr_eq_ofInt]

/-! ## RET -/

section
variable {s t : State} {a b v : Addr} {changed : List Loc}

/-- RET reads the two cells at the SSP it found: its list moves SSP up by 2 and then reads 2 below (R211). -/
theorem exec_ret (s : State) :
    exec .ret s = andThen (memReadWide s.ssp s) fun v =>
      completeAt (v + 1) ((s.setSr .ssp (s.ssp + 2)).setSr .lr v) := by
  have found : offsetAddr (s.ssp + 2) (-2 : BitVec 12) = s.ssp := add_neg_cancel_right s.ssp 2
  exact congrArg (fun a => andThen (memReadWide a s) fun v =>
    completeAt (v + 1) ((s.setSr .ssp (s.ssp + 2)).setSr .lr v)) found

/-- RET pops the value at SSP into LR and goes on behind it (R211). -/
theorem runs_ret (hadmit : admitsWide s.params s.ssp .read) (hholds : s.holdsWide s.ssp v) :
    Runs .ret s fun t => t.lr = v ∧ t.ssp = s.ssp + 2 ∧ Continues (v + 1) t ∧ Frame [.lr, .ssp] s t := by
  have read : memReadWide s.ssp s = .next v := memReadWide_of_holdsWide hadmit hholds
  refine ⟨_, (exec_ret s).trans (congrArg (andThen · _) read), rfl, rfl, ⟨rfl, rfl⟩, ?frame⟩
  exact (((frame_setSr_ssp s _).trans (frame_setSr_lr _ v)).trans (frame_advance _ _ _)).mono (by simp)

/-- Settles O40: RET is a two-cell read at SSP, then its writes. -/
theorem retPopsAndContinuesAfter : Obligations.RetPopsAndContinuesAfter :=
  fun s => ⟨fun _ => runs_ret, exec_ret s ▸ stopsAtWideRead_andThen⟩

/-! ## RET after calls -/

theorem Frame.cell (h : Frame changed s t) (ha : Loc.cell a ∉ changed) : t.cell a = s.cell a :=
  Option.map_injective (fun _ _ => BitVec.eq_of_toNat_eq) (h.2 (.cell a) ha)

/-- A 48-bit value stays in two cells that a frame keeps. -/
theorem Frame.holdsWide (h : Frame changed s t) (first : Loc.cell a ∉ changed) (second : Loc.cell (a + 1) ∉ changed)
    (hs : s.holdsWide a v) : t.holdsWide a v := by
  rw [holdsWide_iff] at hs ⊢
  rwa [h.params, h.cell first, h.cell second]

/-- A call stores below the value on top of the stack and keeps it (R212). -/
theorem Links.holdsWide_ssp (h : Links a s t) (hs : s.holdsWide s.ssp v) : t.holdsWide s.ssp v := by
  obtain ⟨-, -, -, -, frame⟩ := h
  have apart {b : Addr} (first : b ≠ s.ssp - 2) (second : b ≠ s.ssp - 2 + 1) :
      Loc.cell b ∉ [.ssp, .lr] ++ storedWideAt (s.ssp - 2) := by
    simpa [storedWideAt] using And.intro first second
  exact frame.holdsWide (apart (by bv_omega) (by bv_omega)) (apart (by bv_omega) (by bv_omega)) hs

/-- RET with the value stored 2 below `b` gives that value in LR, and SSP is `b` (R211). -/
theorem runs_ret_below (hssp : s.ssp = b - 2) (hadmit : admitsWide s.params (b - 2) .read)
    (hholds : s.holdsWide s.ssp v) :
    Runs .ret s fun t => t.lr = v ∧ t.pc = v + 1 ∧ t.ssp = b ∧ Frame [.lr, .ssp] s t := by
  rw [← hssp] at hadmit
  obtain ⟨t, ht, lr, ssp, ⟨pc, -⟩, frame⟩ := runs_ret hadmit hholds
  exact ⟨t, ht, lr, pc, by rw [ssp, hssp, BitVec.sub_add_cancel], frame⟩

end

/-- Settles O41: each RET finds what the last call not yet undone stored, which an inner call and its RET keep. -/
theorem retAfterCallGoesOneLevelOut : Obligations.RetAfterCallGoesOneLevelOut := by
  intro c1 c2 s0 s1 s2 hc1 hc2 hadmit1 call1
  obtain ⟨ssp1, lr1, stored1, -, frame1⟩ := links_of_isCall hc1 call1
  rw [← ssp1] at stored1
  refine ⟨?oneCall, fun hadmit2 call2 => ?nested⟩
  case oneCall =>
    rw [← frame1.params] at hadmit1
    obtain ⟨t, ht, lr, pc, ssp, -⟩ := runs_ret_below ssp1 hadmit1 stored1
    exact ⟨t, ht, lr, pc, ssp⟩
  case nested =>
    have links2 := links_of_isCall hc2 call2
    have kept2 : s2.holdsWide s1.ssp s0.lr := links2.holdsWide_ssp stored1
    obtain ⟨ssp2, -, stored2, -, frame2⟩ := links2
    have params2 : s2.params = s0.params := frame2.params.trans frame1.params
    have below : s0.ssp - 4 = s1.ssp - 2 := by bv_omega
    rw [← ssp2, lr1] at stored2
    rw [below, ← params2] at hadmit2
    obtain ⟨t, ht, lr, pc, ssp, frame⟩ := runs_ret_below ssp2 hadmit2 stored2
    have kept : t.holdsWide t.ssp s0.lr := ssp ▸ frame.holdsWide (by simp) (by simp) kept2
    rw [← params2, ← frame.params] at hadmit1
    obtain ⟨t', ht', lr', pc', ssp', -⟩ := runs_ret_below (ssp.trans ssp1) hadmit1 kept
    exact ⟨t, ht, lr, pc, t', ht', lr', pc', ssp'⟩

end Sys2Proof.Machine
end

section
/-!
Opclass 1000, the stack helpers (O42 to O44): each is a one- or two-cell access from the state whose pointer has moved
(R220), and from what a push and a pop do, a pop undoes a push.
-/

namespace Sys2Proof.Machine

/-! ## The access after the pointer has moved -/

/-- POPur loads from the pointer it found: its list moves the pointer up by 1 and loads 1 below (R223). -/
theorem exec_popur (d : BitVec 4) (b : BitVec 2) (s : State) :
    exec (.popur d b) s = andThen (memRead (s.getAr b) (s.setAr b (s.getAr b + 1))) fun v =>
      complete ((s.setAr b (s.getAr b + 1)).setDr d v) := by
  have found : offsetAddr (s.getAr b + 1) (-1 : BitVec 10) = s.getAr b := add_neg_cancel_right (s.getAr b) 1
  simp only [exec, execPopur, add48, State.getAr_setAr_self, found]

/-- POPAur loads from the pointer it found: its list moves the pointer up by 2 and loads 2 below (R224). -/
theorem exec_popaur (t b : BitVec 2) (s : State) :
    exec (.popaur t b) s = andThen (memReadWide (s.getAr b) (s.setAr b (s.getAr b + 2))) fun v =>
      complete ((s.setAr b (s.getAr b + 2)).setAr t v) := by
  have found : offsetAddr (s.getAr b + 2) (-2 : BitVec 12) = s.getAr b := add_neg_cancel_right (s.getAr b) 2
  simp only [exec, execPopaur, add48, State.getAr_setAr_self, found]

section
variable {i access : Instr} {s s' : State} {t : BitVec 2} {p : Addr} {c d : List Loc} {post : State → Prop}

theorem Frame.getAr (h : Frame c s s') (ht : Loc.ar t ∉ c) : s'.getAr t = s.getAr t :=
  BitVec.eq_of_toNat_eq (Option.some.inj (h.2 (.ar t) ht))

/-- A stack helper runs as its access does from the moved pointer `p`, which the access keeps unless it writes ARt
(R220, R41). -/
theorem runs_of_moved_pointer (h : exec i s = exec access (s.setAr t p))
    (run : Runs access (s.setAr t p) fun s' => post s' ∧ Advances (s.setAr t p) s' ∧ Frame c (s.setAr t p) s') :
    Runs i s fun s' => post s' ∧ (Loc.ar t ∉ c → s'.getAr t = p) ∧ Advances s s' ∧ Frame (.ar t :: c) s s' := by
  obtain ⟨s', hs', hpost, advances, frame⟩ := run
  exact ⟨s', h.trans hs', hpost, fun ht => (frame.getAr ht).trans (State.getAr_setAr_self ..), advances,
    (frame_setAr s t p).trans frame⟩

/-- A register that holds again what it held is no place the frame has to list. -/
theorem Frame.restore_ar (h : Frame c s s') (ht : s'.getAr t = s.getAr t) (hcd : c ⊆ .ar t :: d) : Frame d s s' := by
  refine ⟨h.params, fun l hl => ?_⟩
  obtain rfl | other := eq_or_ne l (.ar t)
  · exact congrArg (fun a => some a.toNat) ht
  · exact h.2 l fun hc => (List.mem_cons.1 (hcd hc)).elim other hl

end

/-! ## The instructions -/

/-- Settles O42: PUSHur is STur and PUSHAur is STAso, from the pointer moved down. -/
theorem pushesStoreBelowThePointer : Obligations.PushesStoreBelowThePointer := by
  intro t b u s
  refine ⟨fun hadmit => ?push, fun hadmit => ?pushWide, ?stops, ?stopsWide⟩
  case push =>
    have store := runs_of_memWrite (i := .stur t u) (s := s.setAr t (s.getAr t - 1)) (exec_pushur t u s) hadmit
    obtain ⟨s', hs', cell, pointer, rest⟩ := runs_of_moved_pointer (i := .pushur t u) rfl store
    exact ⟨s', hs', pointer (by simp [storedAt]), cell, rest⟩
  case pushWide =>
    have store := runs_of_memWriteWide (i := .staso t b 0) (s := s.setAr t (s.getAr t - 2)) (exec_pushaur t b s) hadmit
    have value : (s.setAr t (s.getAr t - 2)).getAr b = if b = t then s.getAr t - 2 else s.getAr b := by
      split
      case isTrue hbt => rw [hbt, State.getAr_setAr_self]
      case isFalse hbt => exact State.getAr_setAr_ne s _ (Ne.symm hbt)
    rw [value] at store
    obtain ⟨s', hs', holds, pointer, rest⟩ := runs_of_moved_pointer (i := .pushaur t b) rfl store
    exact ⟨s', hs', pointer (by simp [storedWideAt]), holds, rest⟩
  case stops => exact exec_pushur t u s ▸ stopsAtWrite_andThen (s := s.setAr t _)
  case stopsWide => exact exec_pushaur t b s ▸ stopsAtWideWrite_andThen (s := s.setAr t _)

/-- Settles O43: POPur is LDso and POPAur is LDAso, from the pointer moved up, at the pointer found; where POPAur loads
into the pointer, the load is the later write. -/
theorem popsLoadFromTheOldPointer : Obligations.PopsLoadFromTheOldPointer := by
  intro d t b s
  refine ⟨fun v hadmit hcell => ?pop, fun v hadmit hholds => ?popWide, ?stops, ?stopsWide⟩
  case pop =>
    obtain ⟨load, -⟩ :=
      runs_or_stops_of_memRead (i := .ldso d b (-1)) (s := s.setAr b (s.getAr b + 1)) (exec_popur d b s)
    obtain ⟨s', hs', value, pointer, advances, frame⟩ :=
      runs_of_moved_pointer (i := .popur d b) rfl (load v hadmit hcell)
    exact ⟨s', hs', value, pointer (by simp), advances, frame.mono (by simp)⟩
  case popWide =>
    have load := runs_of_memReadWide (i := .ldaso t b (-2)) (s := s.setAr b (s.getAr b + 2)) (exec_popaur t b s)
      hadmit hholds
    obtain ⟨s', hs', value, pointer, advances, frame⟩ := runs_of_moved_pointer (i := .popaur t b) rfl load
    exact ⟨s', hs', value, fun htb => pointer (by simpa using Ne.symm htb), advances, frame.mono (by simp)⟩
  case stops => exact exec_popur d b s ▸ stopsAtRead_andThen (s := s.setAr b _)
  case stopsWide => exact exec_popaur t b s ▸ stopsAtWideRead_andThen (s := s.setAr b _)

/-! ## A push and then a pop -/

section
variable {i : Instr} {s s' : State} {a : Addr} {post : State → Prop}

theorem Runs.of_next (h : Runs i s post) (hs' : exec i s = .next s') : post s' := by
  obtain ⟨u, hu, hpost⟩ := h
  cases hu.symm.trans hs'
  exact hpost

/-- An instruction that would stop at a rejected cell and has completed was admitted there. -/
theorem StopsAtWrite.admits (h : StopsAtWrite (exec i s) s a) (hs' : exec i s = .next s') :
    memAdmits s.params a .write = true := by
  refine Bool.of_not_eq_false fun rejected => ?_
  cases (h rejected).symm.trans hs'

theorem StopsAtWideWrite.admits (h : StopsAtWideWrite (exec i s) s a) (hs' : exec i s = .next s') :
    admitsWide s.params a .write := by
  obtain ⟨first, second⟩ := h
  have firstAdmitted := first.admits hs'
  exact ⟨firstAdmitted, (second firstAdmitted).admits hs'⟩

end

/-- Settles O44: the pop finds at the moved pointer what the push left there, and moves the pointer back. -/
theorem popUndoesPush : Obligations.PopUndoesPush := by
  intro u d t b c s s1 hread
  obtain ⟨push, pushWide, stops, stopsWide⟩ := pushesStoreBelowThePointer t b u s
  refine ⟨fun hs1 => ?oneCell, fun hs1 hbt hct => ?twoCells⟩
  case oneCell =>
    obtain ⟨pointer1, cell, -, frame1⟩ := (push (stops.admits hs1)).of_next hs1
    obtain ⟨pop, -, -, -⟩ := popsLoadFromTheOldPointer d t t s1
    rw [← pointer1] at cell
    rw [← frame1.params] at hread
    obtain ⟨s2, hs2, value, pointer2, -, frame2⟩ := pop _ (hread _) cell
    have restored : s2.getAr t = s.getAr t := by rw [pointer2, pointer1, BitVec.sub_add_cancel]
    exact ⟨s2, hs2, value, restored, (frame1.trans frame2).restore_ar restored (by simp)⟩
  case twoCells =>
    obtain ⟨pointer1, holds, -, frame1⟩ := (pushWide (stopsWide.admits hs1)).of_next hs1
    obtain ⟨-, popWide, -, -⟩ := popsLoadFromTheOldPointer d c t s1
    rw [← pointer1, if_neg hbt] at holds
    rw [← frame1.params] at hread
    obtain ⟨s2, hs2, value, pointer2, -, frame2⟩ := popWide _ ⟨hread _, hread _⟩ holds
    have restored : s2.getAr t = s.getAr t := by rw [pointer2 hct, pointer1, BitVec.sub_add_cancel]
    exact ⟨s2, hs2, value, restored, (frame1.trans frame2).restore_ar restored (by simp)⟩

end Sys2Proof.Machine
end

section
/-!
Opclass 1001, control registers (O45): what each operation on a control register does, on a plain number and on a hooked
one.
-/

namespace Sys2Proof.Machine

section
variable {n : BitVec 8} {s : State}

theorem csrRead_of_plain (h : csrIsHooked s.params n = false) : csrRead n s = s.csr[n.toNat]'n.isLt := by
  simp [csrRead, h]

theorem csrRead_of_hooked (h : csrIsHooked s.params n = true) : csrRead n s = Config.csrPlatformRead n s.draws :=
  if_pos h

theorem csrDraw_of_hooked (h : csrIsHooked s.params n = true) : csrDraw n s = { s with draws := s.draws + 1 } :=
  if_pos h

theorem csrWrite_of_plain (v : Word) (h : csrIsHooked s.params n = false) :
    csrWrite n v s = { s with csr := s.csr.set n.toNat v n.isLt } := by
  simp [csrWrite, h]

theorem csrWrite_of_hooked (v : Word) (h : csrIsHooked s.params n = true) : csrWrite n v s = s := if_pos h

theorem exec_csrrd (d : BitVec 4) (n : BitVec 8) (s : State) :
    exec (.csrrd d n) s = moveZ d (csrRead n s) (csrDraw n s) := rfl

theorem exec_csrwr (d : BitVec 4) (n : BitVec 8) (s : State) :
    exec (.csrwr d n) s = complete (csrWrite n (s.getDr d) s) := rfl

end

/-- Settles O45: on a plain number CSRRD moves the register and CSRWR sets it; on a hooked one CSRRD moves the free
value it has drawn and CSRWR writes nothing. -/
theorem controlRegistersAreStorage : Obligations.ControlRegistersAreStorage := by
  intro d n s
  refine ⟨fun plain => ⟨?read, ?write⟩, fun hooked => ⟨?readHooked, ?writeHooked⟩⟩
  case read =>
    refine runs_of_moveZ ?_
    rw [exec_csrrd, csrRead_of_plain plain, csrDraw_of_plain plain]
  case write =>
    have frame := (frame_csrWrite s n (s.getDr d)).trans (frame_advance _ (s.pc + 1) noneLoaded)
    rw [csrWrite_of_plain _ plain] at frame
    exact ⟨_, congrArg complete (csrWrite_of_plain _ plain), Vector.getElem_set_self n.isLt, ⟨rfl, rfl⟩, frame⟩
  case readHooked =>
    have move := exec_csrrd d n s
    have drawn := frame_csrDraw s n
    rw [csrDraw_of_hooked hooked] at move drawn
    rw [csrRead_of_hooked hooked] at move
    refine ⟨_, move, State.getDr_setDr_self .., zeroFlag_iff _, rfl, ⟨rfl, rfl⟩, ?_⟩
    exact ((drawn.trans (frame_resultZ _ d _)).trans (frame_advance _ _ _)).mono (by simp)
  case writeHooked =>
    refine runs_writesNothing ?_
    rw [exec_csrwr, csrWrite_of_hooked _ hooked]

end Sys2Proof.Machine
end

section
/-!
Opclass 1010, the privileged instructions (O2, O46, O47), and opclass 1111, the micro-operations on the special
registers that their codes name (O48, O49).
-/

namespace Sys2Proof.Machine

/-! ## Special registers written as the last effect -/

/-- A special register is written and nothing else: PC as a jump, the others before the step advances (R250). -/
theorem runs_of_completeSr {i : Instr} {r : SpecialReg} {v : Addr} {s : State} (h : exec i s = completeSr r v s) :
    Runs i s (WritesSr r v s) := by
  cases r with
  | pc => exact runs_of_completeAt h
  | lr => exact ⟨_, h, rfl, ⟨rfl, rfl⟩, (frame_setSr_lr s v).trans (frame_advance _ _ _)⟩
  | ssp => exact ⟨_, h, rfl, ⟨rfl, rfl⟩, (frame_setSr_ssp s v).trans (frame_advance _ _ _)⟩

/-! ## Opclass 1010 -/

/-- Settles O2: SRHLT sets `halted` and nothing else, and a halted state has no step. -/
theorem haltEndsTheRun : Obligations.HaltEndsTheRun :=
  fun s => ⟨_, rfl, rfl, rfl, rfl, frame_setHalted s true, rfl⟩

/-- Settles O46: the word is the encoder's word of SETSSP, which ends with ARs in SSP. -/
theorem setsspCopiesTheRegister : Obligations.SetsspCopiesTheRegister :=
  fun _ _ _ => ⟨decode_of_eq_encode (Laws.encode_eq_formula _) rfl rfl, runs_of_completeSr (r := .ssp) rfl⟩

/-- Settles O47: past the check of its banks, SWI writes LR and jumps. -/
theorem swiLinksAndJumps : Obligations.SwiLinksAndJumps := by
  intro imm s hbanks
  rw [← uimm48_eq_ofNat]
  exact ⟨_, needUimm_of_banksLoaded hbanks, rfl, ⟨rfl, rfl⟩, (frame_setSr_lr s _).trans (frame_advance _ _ _)⟩

/-! ## Opclass 1111 -/

/-- Settles O48: each form ends with its value in the register its target code names. -/
theorem specialRegisterMovesAndSums : Obligations.SpecialRegisterMovesAndSums := by
  intro ct cs b t u imm s ht hu
  refine ⟨runs_of_completeSr (exec_srmovur ht hu), runs_of_completeSr (exec_srmovaur ht b), ?sum, ?difference⟩
  case sum =>
    rw [← add48_eq_ofInt (sext48_eq_ofInt imm)]
    exact runs_of_completeSr (exec_sraddsi ht imm)
  case difference =>
    rw [← sub48_eq_ofInt (sext48_eq_ofInt imm)]
    exact runs_of_completeSr (exec_srsubsi ht imm)

/-- SRLDso fills the target with the value its two cells hold (R257). -/
theorem runs_srldso {ct cs : BitVec 2} {t u : SpecialReg} {imm : BitVec 12} {v : Addr} {s : State}
    (ht : s.params.specialReg ct = some t) (hu : s.params.specialReg cs = some u)
    (hadmit : admitsWide s.params (offsetAddr (s.getSr u) imm) .read)
    (hholds : s.holdsWide (offsetAddr (s.getSr u) imm) v) : Runs (.srldso ct cs imm) s (WritesSr t v s) := by
  refine runs_of_completeSr ?_
  rw [exec_srldso ht hu, memReadWide_of_holdsWide hadmit hholds, andThen_next]

/-- Settles O49: SRJCCso is a conditional transfer, SRSTso a two-cell store and SRLDso a two-cell read, each at its own
offset address. -/
theorem specialRegisterJumpsAndAccesses : Obligations.SpecialRegisterJumpsAndAccesses := by
  intro ct cs cc t u i10 i12 s ht hu
  have jump := transfers_of_whenCond (exec_srjccso ht cc i10)
  rw [offsetAddr_eq_ofInt] at jump
  obtain ⟨taken, notTaken, reserved⟩ := jump
  have store := exec_srstso ht hu i12
  have load := exec_srldso ht hu i12
  exact ⟨taken, notTaken, reserved, runs_of_memWriteWide store, fun _ => runs_srldso ht hu,
    store ▸ stopsAtWideWrite_andThen, load ▸ stopsAtWideRead_andThen⟩

end Sys2Proof.Machine
end

section
/-!
The order of a step's outcomes (O7): how a fetch stops, how a word without an instruction is treated, and what a
well-formed instruction whose banks are loaded does about a condition without a meaning and about its access.
-/

namespace Sys2Proof.Machine

/-! ## Fetch and decode -/

/-- How a fetch faults (R58, R45). -/
theorem fetch_eq_fault {s : State} {r : Fault} :
    fetch s = .fault r ↔
      (memAdmits s.params s.pc .fetch = false ∧ Fault.noMemory s.pc = r) ∨
      (memAdmits s.params s.pc .fetch = true ∧ s.cell s.pc = none ∧ Fault.unwrittenMemory s.pc = r) := by
  unfold fetch State.cell
  split
  · split
    · split
      · simp [*]
      · split <;> simp [*]
    · simp [*]
  · simp_all

theorem step_of_fetch_fault {s : State} {r : Fault} (hh : s.halted = false) (hf : fetch s = .fault r) :
    step s = .fault r := by
  simp [step, hh, hf]

theorem raiseReserved_eq_fault {cause : ReservedCause} (w : Word)
    (h : cause = .emptyOpclass ∨ cause = .unassignedSubop) :
    raiseReserved w cause = .fault (.reservedEncoding w cause) := by
  obtain rfl | rfl := h
  · rfl
  · rfl

theorem raiseReserved_eq_refused {cause : ReservedCause} (w : Word) (hclass : cause ≠ .emptyOpclass)
    (hsubop : cause ≠ .unassignedSubop) : raiseReserved w cause = .refused (.reservedEncoding w cause) := by
  cases cause with
  | emptyOpclass => exact absurd rfl hclass
  | unassignedSubop => exact absurd rfl hsubop
  | reservedBits | noSuchBank | uopNotFetchable | noSpecialRegister => rfl

/-! ## The checks and the access of an instruction -/

section
variable {i : Instr} {s : State}

theorem exists_of_namesSpecial {p : Params} {c : BitVec 2} (h : p.namesSpecial c = true) :
    ∃ r, p.specialReg c = some r :=
  Option.isSome_iff_exists.1 h

theorem exists_of_namesSpecial_and {p : Params} {c d : BitVec 2} (h : (p.namesSpecial c && p.namesSpecial d) = true) :
    ∃ t u, p.specialReg c = some t ∧ p.specialReg d = some u := by
  obtain ⟨hc, hd⟩ := Bool.and_eq_true_iff.1 h
  obtain ⟨t, ht⟩ := exists_of_namesSpecial hc
  obtain ⟨u, hu⟩ := exists_of_namesSpecial hd
  exact ⟨t, u, ht, hu⟩

/-- With its banks loaded and its codes naming registers, a conditional looks up its condition before all else. -/
theorem exec_of_condReserved {cc : BitVec 4} (hwf : i.wellFormed s.params = true)
    (hbanks : s.banksLoaded (banksRead i) = true) (hcc : conditionOf i = some cc)
    (h : ccHolds s.params cc s.flags = none) : exec i s = .refused (.condReserved cc) := by
  cases i with
  | mccur | mccsi | jccur | bccsr | bccso =>
    cases hcc
    exact whenCond_of_reserved h
  | jccui =>
    cases hcc
    exact (needUimm_of_banksLoaded hbanks).trans (whenCond_of_reserved h)
  | srjccso ct c imm =>
    cases hcc
    obtain ⟨t, ht⟩ := exists_of_namesSpecial hwf
    exact (exec_srjccso ht _ imm).trans (whenCond_of_reserved h)
  | _ => cases hcc

/-- With its banks loaded and its codes naming registers, an instruction makes its access before all else that can end
it, and the access of the table of R57 is the one it makes. -/
theorem stops_of_dataAccess {x : Access} (hwf : i.wellFormed s.params = true)
    (hbanks : s.banksLoaded (banksRead i) = true) (h : dataAccess s i = some x) : x.Stops (exec i s) s := by
  cases hi : accessesMemory i with
  | false =>
    rw [dataAccess_of_not_accessesMemory s hi] at h
    cases h
  | true =>
    cases i with
    | ldur | ldso =>
      cases h
      exact stopsAtRead_andThen
    | stur | stsi | stso =>
      cases h
      exact stopsAtWrite_andThen
    | stui t imm =>
      cases h
      have store : exec (.stui t imm) s = _ := needUimm_of_banksLoaded hbanks
      exact store ▸ stopsAtWrite_andThen
    | ldaso =>
      cases h
      exact stopsAtWideRead_andThen
    | staso =>
      cases h
      exact stopsAtWideWrite_andThen
    | pushur t u =>
      cases h
      exact exec_pushur t u s ▸ stopsAtWrite_andThen (s := s.setAr t _)
    | pushaur t b =>
      cases h
      exact exec_pushaur t b s ▸ stopsAtWideWrite_andThen (s := s.setAr t _)
    | popur d b =>
      cases h
      exact exec_popur d b s ▸ stopsAtRead_andThen (s := s.setAr b _)
    | popaur t b =>
      cases h
      exact exec_popaur t b s ▸ stopsAtWideRead_andThen (s := s.setAr b _)
    | jsrur | bsrsr | bsrso =>
      cases h
      exact stopsAtWideWrite_link
    | jsrui imm =>
      cases h
      have call : exec (.jsrui imm) s = _ := needUimm_of_banksLoaded hbanks
      exact call ▸ stopsAtWideWrite_link
    | ret =>
      cases h
      exact exec_ret s ▸ stopsAtWideRead_andThen
    | srstso ct cs imm =>
      obtain ⟨t, u, ht, hu⟩ := exists_of_namesSpecial_and hwf
      rw [dataAccess_srstso, ht] at h
      cases h
      exact exec_srstso ht hu imm ▸ stopsAtWideWrite_andThen
    | srldso ct cs imm =>
      obtain ⟨t, u, ht, hu⟩ := exists_of_namesSpecial_and hwf
      rw [dataAccess_srldso, hu] at h
      cases h
      exact exec_srldso ht hu imm ▸ stopsAtWideRead_andThen
    | _ => cases hi

end

/-- Settles O7: the fetch and the decoder answer first; a word that decodes to an instruction is a well-formed one,
which checks its banks, then its condition, and then makes its access. -/
theorem outcomesComeInOrder : Obligations.OutcomesComeInOrder := by
  intro s hh
  refine ⟨fun rejected => ?rejected, fun hadmit hcell => ?unwritten, fun w cause hf hd => ?undecoded,
    fun w i hf hd => ?decoded⟩
  case rejected => exact step_of_fetch_fault hh (fetch_eq_fault.2 (.inl ⟨rejected, rfl⟩))
  case unwritten => exact step_of_fetch_fault hh (fetch_eq_fault.2 (.inr ⟨hadmit, hcell, rfl⟩))
  case undecoded =>
    rw [step_of_decode_error hh hf hd]
    exact ⟨raiseReserved_eq_fault w, raiseReserved_eq_refused w⟩
  case decoded =>
    have hwf : i.wellFormed s.params = true := (reads_of_decode hd).wellFormed
    rw [step_of_fetch_of_decode hh hf hd]
    exact ⟨(exec_eq_uimmNotLoaded i s).2, fun hbanks =>
      ⟨fun _ => exec_of_condReserved hwf hbanks, fun _ => stops_of_dataAccess hwf hbanks⟩⟩

end Sys2Proof.Machine
end
